-- ==== Sys2Proof/Word.lean ====
section
/-! DEFINITION. The plain data widths of the block (spec/00_scope.md R8, R9): registers of 32 bits, bytes, nibbles,
port and pin indexes of 4 bits, levels of one bit. -/

namespace Sys2Proof

/-- A port register and a request word: 32 bits (R37, R51). -/
abbrev Word := BitVec 32

/-- A character code, an operand byte, an LCD instruction byte (R8). -/
abbrev Byte := BitVec 8

/-- The 4-bit value one enable pulse latches (R8, R62). -/
abbrev Nibble := BitVec 4

/-- A port handle as an operand carries it: 4 bits (R9, R33). -/
abbrev PortIx := BitVec 4

/-- A pin index, `0 .. 15` by its width (R33). -/
abbrev PinIx := BitVec 4

/-- A level: `true` is High (1), `false` is Low (0) (R8, R64). -/
abbrev Level := Bool

end Sys2Proof
end

