-- ==== Sys2Proof/Config.lean ====
section
/-! DEFINITION. What is fixed for the life of the machine (spec/00_scope.md R5): the parameters the spec leaves
OPEN as a structure `Cfg`, the constants it gives, and the free values, which have no body. -/

namespace Sys2Proof

/-- The seven logical signal lines, in the order of R65. -/
inductive Role where
  | rs | rw | e | d0 | d1 | d2 | d3
deriving DecidableEq, Repr

/-- The iteration order of every rule that runs over roles (R65). -/
def Role.all : List Role := [.rs, .rw, .e, .d0, .d1, .d2, .d3]

/-- A (port, pin) pair of a line map (R24). -/
structure PinRef where
  port : PortIx
  pin  : PinIx
deriving DecidableEq, Repr

/-- One pair per role: `LMAP` and `LINEMAP_CFG` (R24, R5). -/
structure LineMap where
  rs : PinRef
  rw : PinRef
  e  : PinRef
  d0 : PinRef
  d1 : PinRef
  d2 : PinRef
  d3 : PinRef
deriving DecidableEq, Repr

def LineMap.pin (m : LineMap) : Role → PinRef
  | .rs => m.rs
  | .rw => m.rw
  | .e  => m.e
  | .d0 => m.d0
  | .d1 => m.d1
  | .d2 => m.d2
  | .d3 => m.d3

/-- The seven pairs are pairwise distinct (R6 clause 5, a premise the hardware does not check: R123). -/
abbrev LineMap.Distinct (m : LineMap) : Prop := (Role.all.map m.pin).Nodup

/-- The parameters R5 leaves OPEN. `rowBaseFrom2` lists `ROW_BASE[2]`, `ROW_BASE[3]`, …: the first two rows are
constants of the hardware. DESIGN CHOICE, log 1: the configuration is carried in State, so that every statement ranges
over every configuration; no step changes it. -/
structure Cfg where
  /-- `NPORTS`: port handles are `0 .. NPORTS-1`. -/
  nports : Nat
  /-- `PORT_BASE[p]`: no rule uses it (R36). -/
  portBase : List Nat
  /-- `LINEMAP_CFG`. -/
  linemap : LineMap
  /-- `LCD_ROWS`. -/
  lcdRows : Byte
  /-- `LCD_COLS`. -/
  lcdCols : Byte
  /-- `ROW_BASE[r]` for `r >= 2`. -/
  rowBaseFrom2 : List (BitVec 7)
  /-- `LCD_PIN_SPEED`. -/
  pinSpeed : BitVec 2
  /-- `T_EH`, in µs. -/
  tEH : Nat
  /-- `T_EL`, in µs. -/
  tEL : Nat
deriving DecidableEq, Repr

namespace Config

/-- `T_POWERON`, 40 ms (R5). -/
def tPowerOn : Nat := 40000
/-- `T_INIT1`, 4.1 ms (R5). -/
def tInit1 : Nat := 4100
/-- `T_INIT2`, 100 µs (R5). -/
def tInit2 : Nat := 100
/-- `T_CLEAR`, 1.52 ms (R5). -/
def tClear : Nat := 1520

/-- FREE VALUE (log 6): what the environment presents on the sixteen pins of a port at the `n`-th draw (R23). -/
opaque padIn : Nat → PortIx → BitVec 16

/-- FREE VALUE (log 15): `ROW_BASE[r]` of a row for which the configuration gives no entry (R31, D23). -/
opaque rowBaseUnlisted : Nat → BitVec 7

/-- FREE VALUE (log 17): the `k`-th 32-bit quantity a platform reset within a run leaves unspecified (R32, R116). -/
opaque resetWord : Nat → Nat → Word

end Config

/-- The example configuration of spec/95_test_vectors.md section 2 (DESIGN CHOICE as the reset state's, log 1). The
base addresses are the model's own (log 1); no rule uses one. -/
def Cfg.example3 : Cfg where
  nports := 3
  portBase := [0x000, 0x400, 0x800]
  linemap :=
    { rs := ⟨1, 0⟩, rw := ⟨1, 1⟩, e := ⟨1, 2⟩, d0 := ⟨1, 4⟩, d1 := ⟨1, 5⟩, d2 := ⟨1, 6⟩, d3 := ⟨1, 7⟩ }
  lcdRows := 2
  lcdCols := 16
  rowBaseFrom2 := []
  pinSpeed := 0
  tEH := 1
  tEL := 40

end Sys2Proof
end

