-- ==== Sys2Proof/Syntax.lean ====
section
/-! DEFINITION. The instructions: one constructor per row of spec/opcode_table.json. The ten operations and the six
reserved opcodes are request words (spec/30_encoding.md R51, R52); the eight LCD instructions are the bytes the LPD puts
on the display bus (R59). -/

namespace Sys2Proof

/-- A Pin Descriptor (R33), each component the code the request word carries (R53, R63). -/
structure Descriptor where
  port  : PortIx
  pin   : PinIx
  mode  : BitVec 2
  otype : BitVec 1
  speed : BitVec 2
  pull  : BitVec 2
  af    : BitVec 4
deriving DecidableEq, Repr

inductive Instr where
  /-- `GPIO_CONFIGURE`: `none` is the absent descriptor (R53, R69). -/
  | gpioConfigure (descriptor : Option Descriptor)
  /-- `GPIO_WRITE` (R70). -/
  | gpioWrite (port : PortIx) (pin : PinIx) (level : Level)
  /-- `GPIO_READ` (R71). -/
  | gpioRead (port : PortIx) (pin : PinIx)
  /-- `GPIO_TOGGLE` (R72). -/
  | gpioToggle (port : PortIx) (pin : PinIx)
  /-- `LCD_INIT` (R82). -/
  | lcdInit
  /-- `LCD_CLEAR` (R94). -/
  | lcdClear
  /-- `LCD_HOME` (R95). -/
  | lcdHome
  /-- `LCD_SET_CURSOR` (R96). -/
  | lcdSetCursor (row col : Byte)
  /-- `LCD_PRINT_CHAR` (R97). -/
  | lcdPrintChar (char : Byte)
  /-- `LCD_PRINT_STRING` with its operand bytes (R56, R98). -/
  | lcdPrintString (str : List Byte)
  /-- Reserved opcode `0x0` (R57); the other 28 bits are kept. -/
  | reserved0 (payload : BitVec 28)
  /-- Reserved opcode `0x5` (R57). -/
  | reserved5 (payload : BitVec 28)
  /-- Reserved opcode `0x6` (R57). -/
  | reserved6 (payload : BitVec 28)
  /-- Reserved opcode `0x7` (R57). -/
  | reserved7 (payload : BitVec 28)
  /-- Reserved opcode `0xE` (R57). -/
  | reservedE (payload : BitVec 28)
  /-- Reserved opcode `0xF` (R57). -/
  | reservedF (payload : BitVec 28)
  /-- Clear-Display, `0000 0001` (R59). -/
  | clearDisplay
  /-- Return-Home, `0000 001x`; `x` is the ignored bit (R59). -/
  | returnHome (x : BitVec 1)
  /-- Entry-Mode-Set, `0000 01 ID S` (R59, R60). -/
  | entryModeSet (id s : BitVec 1)
  /-- Display-Control, `0000 1 D C B` (R59, R60). -/
  | displayControl (d c b : BitVec 1)
  /-- Cursor/Display-Shift, `0001 SC RL x x` (R59, R60). -/
  | cursorDisplayShift (sc rl : BitVec 1) (x : BitVec 2)
  /-- Function-Set, `001 DL N F x x` (R59, R60). -/
  | functionSet (dl n f : BitVec 1) (x : BitVec 2)
  /-- Set-CGRAM-Address, `01 aaaaaa` (R59). -/
  | setCgramAddress (addr : BitVec 6)
  /-- Set-DDRAM-Address, `1 aaaaaaa` (R59). -/
  | setDdramAddress (addr : BitVec 7)
deriving DecidableEq, Repr

end Sys2Proof
end

