-- ==== Sys2Proof/WellFormed.lean ====
section
/-! DEFINITION. Which terms of `Instr` an encoding exists for. Every operand but one has exactly the width of its field;
the string of `LCD_PRINT_STRING` is a list, and its length must fit the 16-bit `LEN` (spec/30_encoding.md R56). A pull
code `0b11` or a port handle beyond `NPORTS` is a request that acceptance refuses (spec/40_gpio_ops.md R68), not one that
cannot be written down. -/

namespace Sys2Proof

def Instr.wellFormed : Instr → Bool
  | .gpioConfigure _ => true
  | .gpioWrite _ _ _ => true
  | .gpioRead _ _ => true
  | .gpioToggle _ _ => true
  | .lcdInit => true
  | .lcdClear => true
  | .lcdHome => true
  | .lcdSetCursor _ _ => true
  | .lcdPrintChar _ => true
  | .lcdPrintString str => decide (str.length < 65536)
  | .reserved0 _ => true
  | .reserved5 _ => true
  | .reserved6 _ => true
  | .reserved7 _ => true
  | .reservedE _ => true
  | .reservedF _ => true
  | .clearDisplay => true
  | .returnHome _ => true
  | .entryModeSet _ _ => true
  | .displayControl _ _ _ => true
  | .cursorDisplayShift _ _ _ => true
  | .functionSet _ _ _ _ => true
  | .setCgramAddress _ => true
  | .setDdramAddress _ => true

end Sys2Proof
end

