-- ==== Sys2Proof/Decode.lean ====
section
/-! DEFINITION. The decoder, total on any word, byte and operand stream and rejecting by name, and after it the encoder
(spec/30_encoding.md R51 to R60). -/

namespace Sys2Proof

/-- Why a pattern of bits is no instruction. -/
inductive DecodeError where
  /-- A bit that the request's format marks `0` is 1 (R57). -/
  | reservedBits
  /-- Fewer than `LEN` operand bytes have been presented: the request is not complete yet (R56). -/
  | incompleteString
  /-- The command byte `0x00` is no LCD instruction (R59). -/
  | notAnLcdInstruction
deriving DecidableEq, Repr

/-! ## Request words -/

/-- `OPC`, bits 31:28 (R51). -/
def reqOpc (w : Word) : BitVec 4 := w.extractLsb' 28 4
/-- `PORT`, bits 27:24 (R51). -/
def reqPort (w : Word) : PortIx := w.extractLsb' 24 4
/-- `PIN`, bits 23:20 (R51). -/
def reqPin (w : Word) : PinIx := w.extractLsb' 20 4
/-- Bit 19: `PRESENT` of format `PC`, `LEVEL` of format `PW` (R51). -/
def reqBit19 (w : Word) : Bool := w.getLsbD 19
/-- `LEN`, bits 27:12 of format `LS` (R56). -/
def reqLen (w : Word) : BitVec 16 := w.extractLsb' 12 16

/-- The descriptor of a `PC` word with `PRESENT = 1` (R53). -/
def reqDescriptor (w : Word) : Descriptor where
  port  := reqPort w
  pin   := reqPin w
  mode  := w.extractLsb' 17 2
  otype := w.extractLsb' 16 1
  speed := w.extractLsb' 14 2
  pull  := w.extractLsb' 12 2
  af    := w.extractLsb' 8 4

/-- The low `n` bits, which a format marks `0`, are all 0 (R51, R57). -/
def lowZero (n : Nat) (w : Word) : Bool := w.extractLsb' 0 n == 0#n

/-- A one-word request: `i` if the format's reserved bits are 0; the operand stream is not touched. -/
def oneWord (zeroBits : Nat) (w : Word) (stream : List Byte) (i : Instr) : Except DecodeError (Instr × List Byte) :=
  if lowZero zeroBits w then .ok (i, stream) else .error .reservedBits

/-- `LCD_PRINT_STRING`: takes exactly `LEN` bytes from the operand stream, in order (R56). -/
def stringRequest (w : Word) (stream : List Byte) : Except DecodeError (Instr × List Byte) :=
  if lowZero 12 w then
    if (reqLen w).toNat ≤ stream.length then
      .ok (.lcdPrintString (stream.take (reqLen w).toNat), stream.drop (reqLen w).toNat)
    else .error .incompleteString
  else .error .reservedBits

/-- The request word `w` with the bytes that wait on the operand stream: the operation, and the bytes left (R51, R52,
R57). With `PRESENT = 0` only bits 7:0 of a `PC` word are checked. A reserved opcode is a term of its own, which exec
refuses. -/
def decodeRequest (w : Word) (stream : List Byte) : Except DecodeError (Instr × List Byte) :=
  match (reqOpc w).toNat with
  | 0x1 => oneWord 8 w stream (.gpioConfigure (if reqBit19 w then some (reqDescriptor w) else none))
  | 0x2 => oneWord 19 w stream (.gpioWrite (reqPort w) (reqPin w) (reqBit19 w))
  | 0x3 => oneWord 20 w stream (.gpioRead (reqPort w) (reqPin w))
  | 0x4 => oneWord 20 w stream (.gpioToggle (reqPort w) (reqPin w))
  | 0x8 => oneWord 28 w stream .lcdInit
  | 0x9 => oneWord 28 w stream .lcdClear
  | 0xA => oneWord 28 w stream .lcdHome
  | 0xB => oneWord 12 w stream (.lcdSetCursor (w.extractLsb' 20 8) (w.extractLsb' 12 8))
  | 0xC => oneWord 20 w stream (.lcdPrintChar (w.extractLsb' 20 8))
  | 0xD => stringRequest w stream
  | 0x0 => .ok (.reserved0 (w.extractLsb' 0 28), stream)
  | 0x5 => .ok (.reserved5 (w.extractLsb' 0 28), stream)
  | 0x6 => .ok (.reserved6 (w.extractLsb' 0 28), stream)
  | 0x7 => .ok (.reserved7 (w.extractLsb' 0 28), stream)
  | 0xE => .ok (.reservedE (w.extractLsb' 0 28), stream)
  | _   => .ok (.reservedF (w.extractLsb' 0 28), stream)

/-! ## LCD instruction bytes -/

/-- The instruction a command byte is: selected by the position of its most significant 1 (R59), flags at the positions
of R60. -/
def decodeByte (b : Byte) : Except DecodeError Instr :=
  if b.getLsbD 7 then .ok (.setDdramAddress (b.extractLsb' 0 7))
  else if b.getLsbD 6 then .ok (.setCgramAddress (b.extractLsb' 0 6))
  else if b.getLsbD 5 then
    .ok (.functionSet (b.extractLsb' 4 1) (b.extractLsb' 3 1) (b.extractLsb' 2 1) (b.extractLsb' 0 2))
  else if b.getLsbD 4 then .ok (.cursorDisplayShift (b.extractLsb' 3 1) (b.extractLsb' 2 1) (b.extractLsb' 0 2))
  else if b.getLsbD 3 then
    .ok (.displayControl (b.extractLsb' 2 1) (b.extractLsb' 1 1) (b.extractLsb' 0 1))
  else if b.getLsbD 2 then .ok (.entryModeSet (b.extractLsb' 1 1) (b.extractLsb' 0 1))
  else if b.getLsbD 1 then .ok (.returnHome (b.extractLsb' 0 1))
  else if b.getLsbD 0 then .ok .clearDisplay
  else .error .notAnLcdInstruction

/-! ## The opcode table as masks and patterns -/

/-- The rows of the request words as (mask, match) pairs (R52; spec/opcode_table.json). -/
def requestRows : List (Word × Word) :=
  [ (0xF00000FF, 0x10000000), (0xF007FFFF, 0x20000000), (0xF00FFFFF, 0x30000000), (0xF00FFFFF, 0x40000000),
    (0xFFFFFFFF, 0x80000000), (0xFFFFFFFF, 0x90000000), (0xFFFFFFFF, 0xA0000000), (0xF0000FFF, 0xB0000000),
    (0xF00FFFFF, 0xC0000000), (0xF0000FFF, 0xD0000000), (0xF0000000, 0x00000000), (0xF0000000, 0x50000000),
    (0xF0000000, 0x60000000), (0xF0000000, 0x70000000), (0xF0000000, 0xE0000000), (0xF0000000, 0xF0000000) ]

/-- The rows of the LCD instruction bytes as (mask, match) pairs (R59). -/
def commandRows : List (Byte × Byte) :=
  [ (0xFF, 0x01), (0xFE, 0x02), (0xFC, 0x04), (0xF8, 0x08), (0xF0, 0x10), (0xE0, 0x20), (0xC0, 0x40), (0x80, 0x80) ]

/-! ## The opcode table's numbering -/

/-- A table row's word as the decoder reads it: 32 bits are a request word, followed on the operand stream by `LEN` bytes
of zeros where it is an `LS` word; 8 bits are an LCD instruction byte. -/
def decodeTableWord (nbits w : Nat) : Option Instr :=
  if nbits = 32 then
    match decodeRequest (BitVec.ofNat 32 w) (List.replicate (reqLen (BitVec.ofNat 32 w)).toNat 0#8) with
    | .ok (i, _) => some i
    | .error _ => none
  else if nbits = 8 then
    match decodeByte (BitVec.ofNat 8 w) with
    | .ok i => some i
    | .error _ => none
  else none

/-! ## The encoder -/

/-- What an instruction is as bits: a request word with its operand bytes, or a byte of the display bus (R50). -/
inductive Code where
  | request (w : Word) (bytes : List Byte)
  | command (b : Byte)
deriving DecidableEq, Repr

/-- The request word of a present descriptor (R51 format `PC`, R53). -/
def encodeDescriptor (d : Descriptor) : Word :=
  0x1#4 ++ d.port ++ d.pin ++ 1#1 ++ d.mode ++ d.otype ++ d.speed ++ d.pull ++ d.af ++ 0#8

/-- The encoding tables R51 to R60 read the other way. -/
def encode : Instr → Code
  | .gpioConfigure none => .request 0x10000000#32 []
  | .gpioConfigure (some d) => .request (encodeDescriptor d) []
  | .gpioWrite p n l => .request (0x2#4 ++ p ++ n ++ BitVec.ofBool l ++ 0#19) []
  | .gpioRead p n => .request (0x3#4 ++ p ++ n ++ 0#20) []
  | .gpioToggle p n => .request (0x4#4 ++ p ++ n ++ 0#20) []
  | .lcdInit => .request 0x80000000#32 []
  | .lcdClear => .request 0x90000000#32 []
  | .lcdHome => .request 0xA0000000#32 []
  | .lcdSetCursor row col => .request (0xB#4 ++ row ++ col ++ 0#12) []
  | .lcdPrintChar c => .request (0xC#4 ++ c ++ 0#20) []
  | .lcdPrintString str => .request (0xD#4 ++ BitVec.ofNat 16 str.length ++ 0#12) str
  | .reserved0 x => .request (0x0#4 ++ x) []
  | .reserved5 x => .request (0x5#4 ++ x) []
  | .reserved6 x => .request (0x6#4 ++ x) []
  | .reserved7 x => .request (0x7#4 ++ x) []
  | .reservedE x => .request (0xE#4 ++ x) []
  | .reservedF x => .request (0xF#4 ++ x) []
  | .clearDisplay => .command 0x01#8
  | .returnHome x => .command (0x01#7 ++ x)
  | .entryModeSet id s => .command (0x01#6 ++ id ++ s)
  | .displayControl d c b => .command (0x01#5 ++ d ++ c ++ b)
  | .cursorDisplayShift sc rl x => .command (0x1#4 ++ sc ++ rl ++ x)
  | .functionSet dl n f x => .command (0x1#3 ++ dl ++ n ++ f ++ x)
  | .setCgramAddress a => .command (0x1#2 ++ a)
  | .setDdramAddress a => .command (0x1#1 ++ a)

/-- Decoding an encoded instruction, with `more` bytes waiting behind its own on the operand stream. -/
def decode (c : Code) (more : List Byte) : Except DecodeError (Instr × List Byte) :=
  match c with
  | .request w bytes => decodeRequest w (bytes ++ more)
  | .command b =>
    match decodeByte b with
    | .ok i => .ok (i, more)
    | .error e => .error e

end Sys2Proof
end

