-- ==== Sys2Proof/Machine/State.lean ====
section
/-! DEFINITION. The state of the block as plain data (spec/10_state.md R10 to R29, R32), the inputs it samples, what the
host and the platform present to it, and the state after reset. -/

namespace Sys2Proof.Machine

/-! ## Registers of a port -/

/-- The ten registers of a port, in the order of R11. -/
inductive Reg where
  | mode | otype | speed | pull | idata | odata | bsr | lock | afl | afh
deriving DecidableEq, Repr

/-- The storage of one port (R11); `IDATA` and `BSR` hold none (R16, R18). -/
structure Port where
  mode  : Word
  otype : Word
  speed : Word
  pull  : Word
  odata : Word
  lock  : Word
  afl   : Word
  afh   : Word
deriving DecidableEq, Repr

/-! ## Trace and response -/

/-- An event of the trace (R28). -/
inductive Event where
  /-- `WR(p, R, v)` -/
  | wr (p : PortIx) (r : Reg) (v : Word)
  /-- `RDI(p, v)` -/
  | rdi (p : PortIx) (v : BitVec 16)
  /-- `WAIT(d)` -/
  | wait (d : Nat)
deriving DecidableEq, Repr

/-- `STATUS` (R29, R105). -/
inductive Status where
  | ok | noEffect
deriving DecidableEq, Repr

/-- `RESP = (STATUS, LEVEL)` (R29). -/
structure Resp where
  status : Status
  level  : Level
deriving DecidableEq, Repr

/-! ## The sequencer -/

/-- One step of an operation's sequence, as its rule writes it: a micro-operation of spec/41_lcd_primitives.md, a register
primitive of spec/20_memory.md, or an assignment. Those that hold more than one register write or wait are nested
sequences of the others (R90). -/
inductive Action where
  /-- `FieldWrite(p, R, off, w, val)` (R42). -/
  | fieldWrite (p : PortIx) (r : Reg) (off w : Nat) (val : Word)
  /-- The first half of a `FieldWrite`: read, clear the field, write (R42). -/
  | clearField (p : PortIx) (r : Reg) (off w : Nat)
  /-- The second half of a `FieldWrite`: read, set the field, write (R42). -/
  | setField (p : PortIx) (r : Reg) (off : Nat) (val : Word)
  /-- The one register write of `GPIO_WRITE` (R70). -/
  | writeLevel (p : PortIx) (n : PinIx) (l : Level)
  /-- The read of `GPIO_READ` and its response (R71). -/
  | readLevel (p : PortIx) (n : PinIx)
  /-- The read-modify-write of `GPIO_TOGGLE` (R72). -/
  | toggle (p : PortIx) (n : PinIx)
  /-- `Drive(role, L)` (R75). -/
  | drive (role : Role) (l : Level)
  /-- `Wait(d)` (R74). -/
  | wait (d : Nat)
  /-- `SendNibble(n)` (R76). -/
  | nibble (n : Nibble)
  /-- `SendCommand(b)` (R78). -/
  | command (b : Byte)
  /-- `SendCommand` taken whole, as the LCD instruction `b` is, its `x` bits 0 (R59, R78). The model's own, log 10: no sequence of an
  operation has it. -/
  | instructionByte (b : Byte)
  /-- `SendData(b)` (R79). -/
  | data (b : Byte)
  /-- Phase P0 of `LCD_INIT` (R83). -/
  | latch
  /-- Phase P2 of `LCD_INIT` for one role (R84). -/
  | setupPin (role : Role)
  /-- `IF4 <- 1` (R87). -/
  | selectFourBit
  /-- `EM_ID <- id; EM_S <- sh` (R88). -/
  | entryMode (id sh : Bool)
  /-- `CUR_ROW <- row; CUR_COL <- col` (R89, R94 to R96). -/
  | cursor (row col : Byte)
  /-- `CUR_COL <- CUR_COL ± 1` (R97). -/
  | advance
  /-- `INIT_DONE <- 1` (R89). -/
  | initDone
  /-- `respond(status, level)` (R9, R58). -/
  | respond (st : Status) (l : Level)
deriving DecidableEq, Repr

/-- `SEQ` (R27): idle, or busy with an operation at the point named by the steps it has still to perform. A point inside a
nested sequence (R90: `D0`, `D1`, …, `E_LOW_WAIT` of a nibble) has the rest of that sequence in front. DEDUCED, log 9. -/
inductive Seq where
  | idle
  | busy (op : Instr) (todo : List Action)
deriving DecidableEq, Repr

/-! ## The LCD unit -/

/-- The registers and flags of the LCD Protocol Driver (R24, R25, R26). -/
structure Lpd where
  lmap     : LineMap
  rows     : Byte
  cols     : Byte
  curRow   : Byte
  curCol   : Byte
  /-- `EM_ID`: `true` is increment. -/
  emId     : Bool
  /-- `EM_S`: `true` is shift on write. -/
  emS      : Bool
  initDone : Bool
  if4      : Bool
deriving DecidableEq, Repr

/-! ## The world outside -/

/-- What happens around the block: a reset at any point, the others between two operations (R22, R116, R127). -/
inductive WorldEvent where
  /-- The clock-enable collaborator sets `CLKEN` (R22). -/
  | clken (v : BitVec 16)
  /-- Another agent writes a port register (R127, fourth row). -/
  | portWrite (p : PortIx) (r : Reg) (v : Word)
  /-- The platform resets the block (R116). -/
  | reset
deriving DecidableEq, Repr

/-- What reaches the block from outside, in the order it does. -/
inductive HostEvent where
  /-- The host presents a request word (R51). -/
  | request (w : Word)
  /-- Something else happens around the block. -/
  | world (e : WorldEvent)
deriving DecidableEq, Repr

/-- The state of R10, the inputs of R22 and R23, and what is waiting outside. -/
structure State where
  /-- `CFG` (R5): constant, no step writes it (log 1). -/
  cfg    : Cfg
  /-- `PORT[p]`; the entries from `NPORTS` on are no ports of the machine (log 13). -/
  ports  : Vector Port 16
  lpd    : Lpd
  seq    : Seq
  resp   : Resp
  /-- `TRACE`, oldest event first (R28). -/
  trace  : List Event
  /-- `CLKEN`, bit `p` for port `p` (R22). -/
  clken  : BitVec 16
  /-- The model's own: the environment's answers to the coming reads of `IDATA`, next one first; where it is empty a
  read is a free value (log 6). -/
  pads   : List (BitVec 16)
  /-- The model's own: what will be presented, next one first (log 7). -/
  inbox  : List HostEvent
  /-- The model's own: the 8-bit operand stream behind string requests (R56, log 7). -/
  stream : List Byte
  /-- The model's own: the index the next free value is drawn at (log 6). -/
  freeIx : Nat
deriving DecidableEq, Repr

/-! ## Reset -/

/-- A port with every storage register 0 (DESIGN CHOICE, log 2: R32 leaves them unspecified). -/
def Port.zero : Port := ⟨0, 0, 0, 0, 0, 0, 0, 0⟩

/-- The LCD unit right after reset: the two flags as R32 says, the other registers, which R32 gives no value, 0
(DESIGN CHOICE, log 3). -/
def Lpd.atReset : Lpd where
  lmap := ⟨⟨0, 0⟩, ⟨0, 0⟩, ⟨0, 0⟩, ⟨0, 0⟩, ⟨0, 0⟩, ⟨0, 0⟩, ⟨0, 0⟩⟩
  rows := 0
  cols := 0
  curRow := 0
  curCol := 0
  emId := false
  emS := false
  initDone := false
  if4 := false

/-- The machine right after reset (R32, R116): `INIT_DONE = 0`, `IF4 = 0`, `SEQ = IDLE`, `TRACE` empty are the spec's;
the other values are named in log 1 to 7. -/
def State.reset : State where
  cfg := Cfg.example3
  ports := Vector.replicate 16 Port.zero
  lpd := Lpd.atReset
  seq := .idle
  resp := ⟨.ok, false⟩
  trace := []
  clken := 0xFFFF
  pads := []
  inbox := []
  stream := []
  freeIx := 0

/-! ## How a step can stop -/

/-- The block has no exception and no fault of its own (R101). -/
inductive Fault where
  /-- Raised by the sequencer when it is `BUSY` with no step left: R27 names no such point and no run reaches one. Safe:
  the model stops. -/
  | noNextStep
deriving DecidableEq, Repr

/-- The refusals of R115, in its order, and two of the model's own. All are safe: the model gives no successor where the
spec gives none. -/
inductive Refusal where
  /-- `busy`: a request while `SEQ != IDLE` (R27). Raised by the acceptance of every operation. Safe. -/
  | busy
  /-- `reserved_request`: a reserved opcode or a reserved bit that is 1 (R57). Raised by fetching a request and by the six
  reserved instructions. Safe. -/
  | reservedRequest
  /-- `invalid_port_handle`: a port handle `>= NPORTS` (R68, R82). Raised by the PRM operations, `LCD_INIT` and another
  agent's write. Safe. -/
  | invalidPortHandle
  /-- `reserved_pull_code`: a descriptor with pull code `0b11` (R68). Raised by `GPIO_CONFIGURE`. Safe. -/
  | reservedPullCode
  /-- `port_clock_disabled`: an access to a port with `CLKEN = 0` (R47). Raised by every operation that touches a port.
  Safe. -/
  | portClockDisabled
  /-- `lcd_not_initialised`: an LCD operation while `INIT_DONE = 0` (R93). Raised by the five operations after
  `LCD_INIT`. Safe. -/
  | lcdNotInitialised
  /-- `read_of_write_only_register`: a read of `BSR` (R40); no operation of the block makes one. Raised by the read
  primitive. Safe. -/
  | readOfWriteOnlyRegister
  /-- The model's own (log 11): the sequencer is about to send the command byte `0x00`, which is no instruction (R59).
  Raised by the sequencer; no operation of the block sends it. Safe. -/
  | notAnLcdInstruction
  /-- The model's own: an instruction whose meaning is not written. Raised by exec's arm alone. Safe. -/
  | notModelled (mnemonic : String)
deriving DecidableEq, Repr

end Sys2Proof.Machine
end

