-- ==== Sys2Proof/Machine/Operands.lean ====
section
/-! DEFINITION. The pure computations of the block (spec/43_lcd_ops.md R100): field offsets and masks, the word written to
`BSR` for one pin and its effect on `ODATA`, nibble and address computations, the bytes the LPD sends, register
addresses. -/

/-- `ROW_BASE[r]` (R5, R31): rows 0 and 1 are the hardware's, the others the configuration's. -/
def Sys2Proof.Cfg.rowBase (c : Sys2Proof.Cfg) (r : Nat) : BitVec 7 :=
  if r = 0 then 0x00#7
  else if r = 1 then 0x40#7
  else (c.rowBaseFrom2[r - 2]?).getD (Sys2Proof.Config.rowBaseUnlisted r)

namespace Sys2Proof.Machine

/-! ## Register fields -/

/-- The `w` bits from bit `off` up (R42). -/
def fieldMask (off w : Nat) : Word := ((1#32 <<< w) - 1#32) <<< off

/-- First half of a field update: the field at 0 (R42). -/
def fieldClear (off w : Nat) (a : Word) : Word := a &&& ~~~(fieldMask off w)

/-- Second half of a field update: the value put into a field at 0 (R42). -/
def fieldSet (off : Nat) (val a : Word) : Word := a ||| (val <<< off)

/-- The field of `w` bits from bit `off` up, as a number of 32 bits (R8). -/
def fieldGet (off w : Nat) (a : Word) : Word := (a >>> off) &&& ((1#32 <<< w) - 1#32)

/-- Offset of a pin's field in `MODE`, `SPEED`, `PULL` (R12, R39). -/
def off2 (n : PinIx) : Nat := 2 * n.toNat

/-- Offset of a pin's field in `OTYPE` (R13, R39). -/
def off1 (n : PinIx) : Nat := n.toNat

/-- The half-register that holds a pin's alternate-function selector (R20, R21). -/
def afReg (n : PinIx) : Reg := if n.toNat ≤ 7 then .afl else .afh

/-- Offset of a pin's selector in its half-register (R39). -/
def offAf (n : PinIx) : Nat := if n.toNat ≤ 7 then 4 * n.toNat else 4 * (n.toNat - 8)

/-! ## Set/reset -/

/-- The word that drives one pin through `BSR`: its set bit for High, its reset bit for Low (R70, R75). -/
def bsrWord (n : PinIx) (l : Level) : Word :=
  if l then 1#32 <<< n.toNat else 1#32 <<< (n.toNat + 16)

/-- `ODATA` after `v` is written to `BSR`: reset bits in 31:16, set bits in 15:0, set wins, the upper half of `ODATA` is
kept (R18, R41). -/
def applyBsr (odata v : Word) : Word :=
  odata.extractLsb' 16 16 ++ ((odata.extractLsb' 0 16 &&& ~~~(v.extractLsb' 16 16)) ||| v.extractLsb' 0 16)

/-- `ODATA` with the output bit of one pin inverted (R72). -/
def toggled (n : PinIx) (odata : Word) : Word := odata ^^^ (1#32 <<< n.toNat)

/-! ## The display bus -/

/-- `b[7:4]` (R77). -/
def highNibble (b : Byte) : Nibble := b.extractLsb' 4 4

/-- `b[3:0]` (R77). -/
def lowNibble (b : Byte) : Nibble := b.extractLsb' 0 4

/-- `(col + ROW_BASE[row])[6:0]` (R96). -/
def ddramAddress (base : BitVec 7) (col : Byte) : BitVec 7 := BitVec.ofNat 7 (col.toNat + base.toNat)

/-- `0x80 | addr` (R61, R96). -/
def setDdramByte (addr : BitVec 7) : Byte := 0x80#8 ||| addr.zeroExtend 8

/-- The bits of an LCD instruction byte that R59 marks `x`; none in what is no such byte. -/
def ignoredBits : Instr → Byte
  | .returnHome _ => 0x01
  | .cursorDisplayShift _ _ _ | .functionSet _ _ _ _ => 0x03
  | .clearDisplay | .entryModeSet _ _ | .displayControl _ _ _ | .setCgramAddress _ | .setDdramAddress _ => 0
  | .gpioConfigure _ | .gpioWrite _ _ _ | .gpioRead _ _ | .gpioToggle _ _ | .lcdInit | .lcdClear | .lcdHome
  | .lcdSetCursor _ _ | .lcdPrintChar _ | .lcdPrintString _ => 0
  | .reserved0 _ | .reserved5 _ | .reserved6 _ | .reserved7 _ | .reservedE _ | .reservedF _ => 0

/-- The byte an LCD instruction is on the bus: its encoding with the `x` bits sent as 0, whatever they are in the
instruction (R59, R60, R67). -/
def busByte (i : Instr) : Byte :=
  match encode i with
  | .command b => b &&& ~~~ignoredBits i
  | .request _ _ => 0

/-- What the block sends for an LCD instruction byte: the byte with its `x` bits 0 (R59, R67). -/
def sentByte (b : Byte) : Byte :=
  match decodeByte b with
  | .ok i => busByte i
  | .error _ => b

/-! ## Addresses -/

/-- `k`, the index of a register in the order of R11. -/
def regIndex : Reg → Nat
  | .mode => 0
  | .otype => 1
  | .speed => 2
  | .pull => 3
  | .idata => 4
  | .odata => 5
  | .bsr => 6
  | .lock => 7
  | .afl => 8
  | .afh => 9

/-- `OFF(R) = 4 * k` (R35). -/
def regOffset (r : Reg) : Nat := 4 * regIndex r

/-- `PORT_BASE[p] + OFF(R)` (R34, R36), where the configuration gives port `p` a base. No operation uses it. -/
def regAddress (c : Cfg) (p : PortIx) (r : Reg) : Option Nat :=
  (c.portBase[p.toNat]?).map (· + regOffset r)

/-! ## The response as bits -/

/-- `RESP[1] = STATUS`, `RESP[0] = LEVEL` (R58, R105). -/
def respBits (r : Resp) : BitVec 2 :=
  BitVec.ofBool (r.status == .noEffect) ++ BitVec.ofBool r.level

end Sys2Proof.Machine
end

