-- ==== Sys2Proof/Machine/Flags.lean ====
section
/-! DEFINITION. The flags, the session registers and the response: every assignment to them that a rule writes
(spec/10_state.md R25, R26, R29; spec/42_lcd_init.md R83, R87 to R89; spec/43_lcd_ops.md R94 to R97). -/

namespace Sys2Proof.Machine

/-- Phase P0: the two flags cleared, line map and geometry latched from the configuration (R83). -/
def latchConfig (s : State) : State :=
  { s with lpd := { s.lpd with initDone := false, if4 := false, lmap := s.cfg.linemap,
                               rows := s.cfg.lcdRows, cols := s.cfg.lcdCols } }

/-- `IF4 <- 1` (R87). -/
def setIf4 (s : State) : State := { s with lpd := { s.lpd with if4 := true } }

/-- `EM_ID <- id; EM_S <- sh` (R88). -/
def setEntryMode (id sh : Bool) (s : State) : State := { s with lpd := { s.lpd with emId := id, emS := sh } }

/-- `CUR_ROW <- row; CUR_COL <- col` (R89, R94, R95, R96). -/
def setCursor (row col : Byte) (s : State) : State := { s with lpd := { s.lpd with curRow := row, curCol := col } }

/-- The tracked column one further in the direction of `EM_ID`, modulo 256 (R97, R100). -/
def advancedCol (l : Lpd) : Byte := if l.emId then l.curCol + 1#8 else l.curCol - 1#8

/-- `CUR_COL` moves by one; it is not compared with `COLS` (R97). -/
def advanceCursor (s : State) : State := { s with lpd := { s.lpd with curCol := advancedCol s.lpd } }

/-- `INIT_DONE <- 1` (R89). -/
def setInitDone (s : State) : State := { s with lpd := { s.lpd with initDone := true } }

/-- `respond(status, level)`: the response presented, `SEQ <- IDLE` (R9, R27, R58). -/
def respond (st : Status) (l : Level) (s : State) : State := { s with seq := .idle, resp := ⟨st, l⟩ }

end Sys2Proof.Machine
end

