-- ==== Sys2Proof/Machine/Ops.lean ====
section
/-! DEFINITION. The named operations over registers and bus that every meaning is built from: register access
(spec/20_memory.md R40 to R42, R47), the micro-operations (spec/41_lcd_primitives.md R74 to R79), one step of the
sequencer, and the acceptance of an operation (R68, R82, R93, R107). The block takes no exception and returns from none
(spec/60_exceptions.md R101, R108, R109), so there is no trap entry here. -/

namespace Sys2Proof.Machine

/-! ## Register access -/

/-- Port `p` exists: `p < NPORTS` (R36, R57). -/
def portExists (s : State) (p : PortIx) : Bool := decide (p.toNat < s.cfg.nports)

/-- `CLKEN[p] = 1`; a port that does not exist has no clock (R22, R47; log 13). -/
def clockOn (s : State) (p : PortIx) : Bool := portExists s p && s.clken.getLsbD p.toNat

/-- The storage of one port among all. -/
def portAt (ps : Vector Port 16) (p : PortIx) : Port := ps[p.toNat]'p.isLt

/-- All ports with one replaced. -/
def putPort (ps : Vector Port 16) (p : PortIx) (q : Port) : Vector Port 16 := ps.set p.toNat q p.isLt

/-- The storage of port `p`. -/
def port (s : State) (p : PortIx) : Port := portAt s.ports p

def setPort (p : PortIx) (q : Port) (s : State) : State := { s with ports := putPort s.ports p q }

/-- `emit e` (R9, R28). -/
def emit (e : Event) (s : State) : State := { s with trace := s.trace ++ [e] }

/-- What a storage register of a port holds; `none` for the two that hold nothing (R11). -/
def Port.stored (q : Port) : Reg → Option Word
  | .mode => some q.mode
  | .otype => some q.otype
  | .speed => some q.speed
  | .pull => some q.pull
  | .idata => none
  | .odata => some q.odata
  | .bsr => none
  | .lock => some q.lock
  | .afl => some q.afl
  | .afh => some q.afh

/-- A port after the 32-bit value `v` is written to one of its registers (R41). -/
def Port.write (q : Port) (r : Reg) (v : Word) : Port :=
  match r with
  | .mode => { q with mode := v }
  | .otype => { q with otype := v }
  | .speed => { q with speed := v }
  | .pull => { q with pull := v }
  | .idata => q
  | .odata => { q with odata := v }
  | .bsr => { q with odata := applyBsr q.odata v }
  | .lock => { q with lock := v }
  | .afl => { q with afl := v }
  | .afh => { q with afh := v }

/-- The environment's answer to one read of `IDATA`: the next of the queue, else a free value (R23, log 6). -/
def drawPad (p : PortIx) (s : State) : BitVec 16 × State :=
  match s.pads with
  | v :: rest => (v, { s with pads := rest })
  | [] => (Config.padIn s.freeIx p, { s with freeIx := s.freeIx + 1 })

/-- `RegRead(p, R)` (R40). -/
def regRead (p : PortIx) (r : Reg) (s : State) : Except Refusal (Word × State) :=
  match r with
  | .bsr => .error .readOfWriteOnlyRegister
  | .idata => .ok ((drawPad p s).1.zeroExtend 32, emit (.rdi p (drawPad p s).1) (drawPad p s).2)
  | .mode | .otype | .speed | .pull | .odata | .lock | .afl | .afh =>
    .ok (((port s p).stored r).getD 0, s)

/-- `RegWrite(p, R, v)` (R41). -/
def regWrite (p : PortIx) (r : Reg) (v : Word) (s : State) : State :=
  setPort p ((port s p).write r v) (emit (.wr p r v) s)

/-- A read-modify-write of one register (R42, R72). -/
def modifyReg (p : PortIx) (r : Reg) (f : Word → Word) (s : State) : Except Refusal State :=
  match regRead p r s with
  | .error e => .error e
  | .ok (a, s1) => .ok (regWrite p r (f a) s1)

/-- The first half of a field update (R42). -/
def clearField (p : PortIx) (r : Reg) (off w : Nat) (s : State) : Except Refusal State :=
  modifyReg p r (fieldClear off w) s

/-- The second half of a field update (R42). -/
def setField (p : PortIx) (r : Reg) (off : Nat) (val : Word) (s : State) : Except Refusal State :=
  modifyReg p r (fieldSet off val) s

/-- `FieldWrite(p, R, off, w, val)`: clear, then set, each a read-modify-write (R42). -/
def fieldWrite (p : PortIx) (r : Reg) (off w : Nat) (val : Word) (s : State) : Except Refusal State :=
  (clearField p r off w s).bind (setField p r off val)

/-- One pin driven through `BSR`: the register write of `GPIO_WRITE` and of `Drive` (R70, R75). -/
def writePin (p : PortIx) (n : PinIx) (l : Level) (s : State) : State := regWrite p .bsr (bsrWord n l) s

/-- The output bit of one pin inverted by a read-modify-write of `ODATA` (R72). -/
def togglePin (p : PortIx) (n : PinIx) (s : State) : Except Refusal State :=
  modifyReg p .odata (toggled n) s

/-- `GPIO_READ`'s body: the bit of `IDATA` at the pin is the response (R71). -/
def readPin (p : PortIx) (n : PinIx) (s : State) : Except Refusal State :=
  match regRead p .idata s with
  | .error e => .error e
  | .ok (v, s1) => .ok (respond .ok (v.getLsbD n.toNat) s1)

/-! ## Micro-operations of the display bus -/

/-- `Wait(d)` (R74). -/
def wait (d : Nat) (s : State) : State := emit (.wait d) s

/-- `Drive(role, L)` (R75). -/
def drive (role : Role) (l : Level) (s : State) : State :=
  writePin (s.lpd.lmap.pin role).port (s.lpd.lmap.pin role).pin l s

/-- The four data lines of a nibble, in the order of R76; bit `i` goes to `D<i>` (R62). -/
def driveNibble (n : Nibble) (s : State) : State :=
  drive .d3 (n.getLsbD 3) (drive .d2 (n.getLsbD 2) (drive .d1 (n.getLsbD 1) (drive .d0 (n.getLsbD 0) s)))

/-- The enable pulse that latches a nibble (R76, R119). -/
def pulseEnable (s : State) : State :=
  wait s.cfg.tEL (drive .e false (wait s.cfg.tEH (drive .e true s)))

/-- `SendNibble(n)` (R76). -/
def sendNibble (n : Nibble) (s : State) : State := pulseEnable (driveNibble n s)

/-- `SendByte(b)`: high nibble first (R77). -/
def sendByte (b : Byte) (s : State) : State := sendNibble (lowNibble b) (sendNibble (highNibble b) s)

/-- `SendCommand(b)` (R78). -/
def sendCommand (b : Byte) (s : State) : State := sendByte b (drive .rs false s)

/-- `SendData(b)` (R79). -/
def sendData (b : Byte) (s : State) : State := sendByte b (drive .rs true s)

/-- Phase P2 for one role: the four field writes of `GPIO_CONFIGURE p, n, 0b01, 0, LCD_PIN_SPEED, 0b00` (R84). -/
def setupPin (role : Role) (s : State) : Except Refusal State :=
  let p := (s.lpd.lmap.pin role).port
  let n := (s.lpd.lmap.pin role).pin
  (fieldWrite p .mode (off2 n) 2 0b01#32 s).bind fun s1 =>
  (fieldWrite p .otype (off1 n) 1 0#32 s1).bind fun s2 =>
  (fieldWrite p .speed (off2 n) 2 (s.cfg.pinSpeed.zeroExtend 32) s2).bind fun s3 =>
  fieldWrite p .pull (off2 n) 2 0b00#32 s3

/-! ## The sequencer -/

/-- One step of an operation's sequence. `0x00` is no instruction and is never sent as a command (R59, R67). -/
def perform (a : Action) (s : State) : Except Refusal State :=
  match a with
  | .fieldWrite p r off w val => fieldWrite p r off w val s
  | .clearField p r off w => clearField p r off w s
  | .setField p r off val => setField p r off val s
  | .writeLevel p n l => .ok (writePin p n l s)
  | .readLevel p n => readPin p n s
  | .toggle p n => togglePin p n s
  | .drive role l => .ok (drive role l s)
  | .wait d => .ok (wait d s)
  | .nibble n => .ok (sendNibble n s)
  | .command b => if b = 0 then .error .notAnLcdInstruction else .ok (sendCommand b s)
  | .instructionByte b => if b = 0 then .error .notAnLcdInstruction else .ok (sendCommand (sentByte b) s)
  | .data b => .ok (sendData b s)
  | .latch => .ok (latchConfig s)
  | .setupPin role => setupPin role s
  | .selectFourBit => .ok (setIf4 s)
  | .entryMode id sh => .ok (setEntryMode id sh s)
  | .cursor row col => .ok (setCursor row col s)
  | .advance => .ok (advanceCursor s)
  | .initDone => .ok (setInitDone s)
  | .respond st l => .ok (respond st l s)

/-- The eight nested steps of `SendNibble(n)`: `D0`, `D1`, `D2`, `D3`, `E_HIGH`, `E_HIGH_WAIT`, `E_LOW`, `E_LOW_WAIT`
(R76, R90). -/
def nibbleSteps (c : Cfg) (n : Nibble) : List Action :=
  [ .drive .d0 (n.getLsbD 0), .drive .d1 (n.getLsbD 1), .drive .d2 (n.getLsbD 2), .drive .d3 (n.getLsbD 3),
    .drive .e true, .wait c.tEH, .drive .e false, .wait c.tEL ]

/-- The nested steps of `SendCommand(b)` and `SendData(b)` (R77 to R79). -/
def transactionSteps (c : Cfg) (rs : Level) (b : Byte) : List Action :=
  .drive .rs rs :: (nibbleSteps c (highNibble b) ++ nibbleSteps c (lowNibble b))

/-- The two nested steps of a field update (R42). -/
def fieldSteps (p : PortIx) (r : Reg) (off w : Nat) (val : Word) : List Action :=
  [.clearField p r off w, .setField p r off val]

/-- The eight nested steps of phase P2 for one role (R84). -/
def setupSteps (s : State) (role : Role) : List Action :=
  let p := (s.lpd.lmap.pin role).port
  let n := (s.lpd.lmap.pin role).pin
  fieldSteps p .mode (off2 n) 2 0b01#32 ++ fieldSteps p .otype (off1 n) 1 0#32 ++
  fieldSteps p .speed (off2 n) 2 (s.cfg.pinSpeed.zeroExtend 32) ++ fieldSteps p .pull (off2 n) 2 0b00#32

/-- A step of a sequence as small steps, each at most one register write or one wait (R27, R90); never empty. The command
byte `0x00` has none (R59). -/
def smallSteps (s : State) (a : Action) : List Action :=
  match a with
  | .fieldWrite p r off w val => fieldSteps p r off w val
  | .nibble n => nibbleSteps s.cfg n
  | .command b => if b = 0 then [.command b] else transactionSteps s.cfg false b
  | .data b => transactionSteps s.cfg true b
  | .setupPin role => setupSteps s role
  | .clearField _ _ _ _ | .setField _ _ _ _ | .writeLevel _ _ _ | .readLevel _ _ | .toggle _ _ | .drive _ _ | .wait _
  | .instructionByte _ | .latch | .selectFourBit | .entryMode _ _ | .cursor _ _ | .advance | .initDone
  | .respond _ _ => [a]

/-- The steps of a sequence, one after another, each completed before the next begins (R27, R44). -/
def runActions : List Action → State → Except Refusal State
  | [], s => .ok s
  | a :: rest, s =>
    match perform a s with
    | .ok t => runActions rest t
    | .error e => .error e

/-- What a completed or refused sequence is as the outcome of a step. -/
def toOutcome (r : Except Refusal State) : Host.Outcome State Fault Refusal :=
  match r with
  | .ok t => .next t
  | .error e => .refused e

/-! ## Acceptance -/

/-- The first check of a list that fails names the refusal (R107). -/
def firstRefusal : List (Bool × Refusal) → Option Refusal
  | [] => none
  | (holds, e) :: rest => if holds then firstRefusal rest else some e

/-- `SEQ <- BUSY(op, first)` (R27). -/
def accepted (op : Instr) (steps : List Action) (s : State) : State := { s with seq := .busy op steps }

/-- A request presented to the block: refused while busy, then the checks in their order, then `SEQ <- BUSY` and the
operation run to its response (R2, R27, R107). -/
def operate (op : Instr) (checks : List (Bool × Refusal)) (steps : List Action) (s : State) :
    Host.Outcome State Fault Refusal :=
  match s.seq with
  | .busy _ _ => .refused .busy
  | .idle =>
    match firstRefusal checks with
    | some e => .refused e
    | none => toOutcome (runActions steps (accepted op steps s))

/-- Every line of a map lies on a port that exists (R82). -/
def linesExist (s : State) (m : LineMap) : Bool := Role.all.all fun r => portExists s (m.pin r).port

/-- Every line of a map lies on a port whose clock is on (R82, R93). -/
def linesClocked (s : State) (m : LineMap) : Bool := Role.all.all fun r => clockOn s (m.pin r).port

/-- The checks of a PRM operation on a port (R68, without the pull code's). -/
def portChecks (s : State) (p : PortIx) : List (Bool × Refusal) :=
  [(portExists s p, .invalidPortHandle), (clockOn s p, .portClockDisabled)]

/-- The checks of an LCD operation other than `LCD_INIT` (R93). -/
def lcdChecks (s : State) : List (Bool × Refusal) :=
  [(s.lpd.initDone, .lcdNotInitialised), (linesClocked s s.lpd.lmap, .portClockDisabled)]

/-- An LCD instruction byte put on the bus: the command transaction of R78, on lines whose ports have their clocks on
(R47). It is a step of an operation, so it leaves `SEQ` and `RESP` alone. DEDUCED, log 10. DESIGN CHOICE, log 26: `IF4` is
not looked at, so a byte run while `IF4 = 0`, for which R77 gives no transfer, is sent as two nibbles too. -/
def transmit (b : Byte) (s : State) : Host.Outcome State Fault Refusal :=
  if linesClocked s s.lpd.lmap then .next (sendCommand b s) else .refused .portClockDisabled

end Sys2Proof.Machine
end

