-- ==== Sys2Proof/Machine/Gpio.lean ====
section
/-! DEFINITION. The four operations of the Port Register Model (spec/40_gpio_ops.md R68 to R72). -/

namespace Sys2Proof.Machine

/-- The sequence of a present descriptor (R69): four field writes whatever the mode, the alternate-function field only
in Alternate-Function mode. -/
def configureSteps (d : Descriptor) : List Action :=
  [ .fieldWrite d.port .mode (off2 d.pin) 2 (d.mode.zeroExtend 32),
    .fieldWrite d.port .otype (off1 d.pin) 1 (d.otype.zeroExtend 32),
    .fieldWrite d.port .speed (off2 d.pin) 2 (d.speed.zeroExtend 32),
    .fieldWrite d.port .pull (off2 d.pin) 2 (d.pull.zeroExtend 32) ] ++
  (if d.mode = 0b10#2 then [.fieldWrite d.port (afReg d.pin) (offAf d.pin) 4 (d.af.zeroExtend 32)] else []) ++
  [.respond .ok false]

/-- The checks of a present descriptor, in the order of R68: port handle, pull code, clock. -/
def configureChecks (s : State) (d : Descriptor) : List (Bool × Refusal) :=
  [ (portExists s d.port, .invalidPortHandle), (d.pull != 0b11#2, .reservedPullCode),
    (clockOn s d.port, .portClockDisabled) ]

/-- `GPIO_CONFIGURE` (R69). The absent descriptor is a silent no-op that no check precedes (R102, R107). -/
def execGpioConfigure (descriptor : Option Descriptor) (s : State) : Host.Outcome State Fault Refusal :=
  match descriptor with
  | none => operate (.gpioConfigure none) [] [.respond .ok false] s
  | some d => operate (.gpioConfigure (some d)) (configureChecks s d) (configureSteps d) s

/-- `GPIO_WRITE` (R70). -/
def execGpioWrite (p : PortIx) (n : PinIx) (l : Level) (s : State) : Host.Outcome State Fault Refusal :=
  operate (.gpioWrite p n l) (portChecks s p) [.writeLevel p n l, .respond .ok false] s

/-- `GPIO_READ` (R71). -/
def execGpioRead (p : PortIx) (n : PinIx) (s : State) : Host.Outcome State Fault Refusal :=
  operate (.gpioRead p n) (portChecks s p) [.readLevel p n] s

/-- `GPIO_TOGGLE` (R72). -/
def execGpioToggle (p : PortIx) (n : PinIx) (s : State) : Host.Outcome State Fault Refusal :=
  operate (.gpioToggle p n) (portChecks s p) [.toggle p n, .respond .ok false] s

end Sys2Proof.Machine
end

