-- ==== Sys2Proof/Machine/LcdBytes.lean ====
section
/-! DEFINITION. The eight LCD instruction bytes (spec/30_encoding.md R59, R60): what the block does with one is to put it
on the bus as a command (spec/41_lcd_primitives.md R78), its `x` bits sent as 0 (R59, R67). The wait after Clear-Display and Return-Home, the tracked cursor
and the entry-mode registers belong to the operations that send the byte (R88, R94 to R96), and what the display does is
outside the block (R30). -/

namespace Sys2Proof.Machine

/-- Clear-Display (R59, R78). -/
def execClearDisplay (s : State) : Host.Outcome State Fault Refusal := transmit (busByte .clearDisplay) s
/-- Return-Home (R59, R78). -/
def execReturnHome (x : BitVec 1) (s : State) : Host.Outcome State Fault Refusal := transmit (busByte (.returnHome x)) s
/-- Entry-Mode-Set (R59, R60, R78). -/
def execEntryModeSet (id sh : BitVec 1) (s : State) : Host.Outcome State Fault Refusal :=
  transmit (busByte (.entryModeSet id sh)) s
/-- Display-Control (R59, R60, R78). -/
def execDisplayControl (d c b : BitVec 1) (s : State) : Host.Outcome State Fault Refusal :=
  transmit (busByte (.displayControl d c b)) s
/-- Cursor/Display-Shift (R59, R60, R78); no operation of the block sends it (R99). -/
def execCursorDisplayShift (sc rl : BitVec 1) (x : BitVec 2) (s : State) : Host.Outcome State Fault Refusal :=
  transmit (busByte (.cursorDisplayShift sc rl x)) s
/-- Function-Set (R59, R60, R78). -/
def execFunctionSet (dl n f : BitVec 1) (x : BitVec 2) (s : State) : Host.Outcome State Fault Refusal :=
  transmit (busByte (.functionSet dl n f x)) s
/-- Set-CGRAM-Address (R59, R78); no operation of the block sends it (R99). -/
def execSetCgramAddress (a : BitVec 6) (s : State) : Host.Outcome State Fault Refusal :=
  transmit (busByte (.setCgramAddress a)) s
/-- Set-DDRAM-Address (R59, R78). -/
def execSetDdramAddress (a : BitVec 7) (s : State) : Host.Outcome State Fault Refusal :=
  transmit (busByte (.setDdramAddress a)) s

end Sys2Proof.Machine
end

