-- ==== Sys2Proof/Machine/LcdInit.lean ====
section
/-! DEFINITION. The initialization state machine `LCD_INIT` (spec/42_lcd_init.md R82 to R92): the table of R90 as named
steps, each with its action and its one successor. -/

namespace Sys2Proof.Machine

/-- The steps of `SEQ = BUSY(LCD_INIT, step)` (R90). -/
inductive InitStep where
  | latch | preset | pincfg | pwrWait | fs8x1 | wait4100 | fs8x2 | wait100 | fs8x3 | fs4
  | funcSet | dispCtrl | entryMode | clear | clearWait | finish
deriving DecidableEq, Repr

/-- The column "action" of R90. -/
def initActions : InitStep → List Action
  | .latch => [.latch]
  | .preset => Role.all.map fun r => .drive r false
  | .pincfg => Role.all.map .setupPin
  | .pwrWait => [.wait Config.tPowerOn]
  | .fs8x1 => [.nibble 0b0011#4]
  | .wait4100 => [.wait Config.tInit1]
  | .fs8x2 => [.nibble 0b0011#4]
  | .wait100 => [.wait Config.tInit2]
  | .fs8x3 => [.nibble 0b0011#4]
  | .fs4 => [.nibble 0b0010#4, .selectFourBit]
  | .funcSet => [.command 0x28#8]
  | .dispCtrl => [.command 0x0C#8]
  | .entryMode => [.command 0x06#8, .entryMode true false]
  | .clear => [.command 0x01#8]
  | .clearWait => [.wait Config.tClear]
  | .finish => [.cursor 0 0, .initDone, .respond .ok false]

/-- The column "next" of R90; `none` is `IDLE`. -/
def initNext : InitStep → Option InitStep
  | .latch => some .preset
  | .preset => some .pincfg
  | .pincfg => some .pwrWait
  | .pwrWait => some .fs8x1
  | .fs8x1 => some .wait4100
  | .wait4100 => some .fs8x2
  | .fs8x2 => some .wait100
  | .wait100 => some .fs8x3
  | .fs8x3 => some .fs4
  | .fs4 => some .funcSet
  | .funcSet => some .dispCtrl
  | .dispCtrl => some .entryMode
  | .entryMode => some .clear
  | .clear => some .clearWait
  | .clearWait => some .finish
  | .finish => none

/-- The actions from a step on, following the table for at most `fuel` rows. -/
def initFrom : Nat → InitStep → List Action
  | 0, _ => []
  | fuel + 1, st =>
    match initNext st with
    | some nx => initActions st ++ initFrom fuel nx
    | none => initActions st

/-- The whole sequence, from `LATCH` through the sixteen rows to `IDLE` (R82, R90). -/
def initSteps : List Action := initFrom 16 .latch

/-- The acceptance checks of `LCD_INIT`, on the configured line map (R82). -/
def initChecks (s : State) : List (Bool × Refusal) :=
  [(linesExist s s.cfg.linemap, .invalidPortHandle), (linesClocked s s.cfg.linemap, .portClockDisabled)]

/-- `LCD_INIT` (R82). -/
def execLcdInit (s : State) : Host.Outcome State Fault Refusal :=
  operate .lcdInit (initChecks s) initSteps s

end Sys2Proof.Machine
end

