-- ==== Sys2Proof/Machine/LcdOps.lean ====
section
/-! DEFINITION. The five LCD operations after initialization (spec/43_lcd_ops.md R93 to R98). -/

namespace Sys2Proof.Machine

/-- The sequence of `LCD_CLEAR` (R94). -/
def clearSteps : List Action := [.command 0x01#8, .wait Config.tClear, .cursor 0 0, .respond .ok false]

/-- `LCD_CLEAR` (R94). -/
def execLcdClear (s : State) : Host.Outcome State Fault Refusal :=
  operate .lcdClear (lcdChecks s) clearSteps s

/-- The sequence of `LCD_HOME` (R95). -/
def homeSteps : List Action := [.command 0x02#8, .wait Config.tClear, .cursor 0 0, .respond .ok false]

/-- `LCD_HOME` (R95; the spec's own completion, log 20). -/
def execLcdHome (s : State) : Host.Outcome State Fault Refusal :=
  operate .lcdHome (lcdChecks s) homeSteps s

/-- The sequence of `LCD_SET_CURSOR`: row tested first, then column; out of range nothing is sent (R96). -/
def setCursorSteps (row col : Byte) (s : State) : List Action :=
  if s.lpd.rows ≤ row then [.respond .noEffect false]
  else if s.lpd.cols ≤ col then [.respond .noEffect false]
  else
    [ .command (setDdramByte (ddramAddress (s.cfg.rowBase row.toNat) col)), .cursor row col, .respond .ok false ]

/-- `LCD_SET_CURSOR` (R96). -/
def execLcdSetCursor (row col : Byte) (s : State) : Host.Outcome State Fault Refusal :=
  operate (.lcdSetCursor row col) (lcdChecks s) (setCursorSteps row col s) s

/-- One character: sent as data, then the tracked column moves (R97). -/
def charSteps (c : Byte) : List Action := [.data c, .advance]

/-- `LCD_PRINT_CHAR` (R97). -/
def execLcdPrintChar (c : Byte) (s : State) : Host.Outcome State Fault Refusal :=
  operate (.lcdPrintChar c) (lcdChecks s) (charSteps c ++ [.respond .ok false]) s

/-- The sequence of `LCD_PRINT_STRING`: every character in order, one response at the end (R98). -/
def stringSteps (str : List Byte) : List Action := str.flatMap charSteps ++ [.respond .ok false]

/-- `LCD_PRINT_STRING` (R98). -/
def execLcdPrintString (str : List Byte) (s : State) : Host.Outcome State Fault Refusal :=
  operate (.lcdPrintString str) (lcdChecks s) (stringSteps str) s

end Sys2Proof.Machine
end

