-- ==== Sys2Proof/Machine/Reserved.lean ====
section
/-! DEFINITION. The six reserved opcodes (spec/30_encoding.md R57): no operation of the block, refused. While the block is
busy the refusal is `busy`, the first check of R107. -/

namespace Sys2Proof.Machine

/-- A request whose opcode is reserved (R57, R107). -/
def refuseReserved (op : Instr) (s : State) : Host.Outcome State Fault Refusal :=
  operate op [(false, .reservedRequest)] [] s

/-- Opcode `0x0` (R57). -/
def execReserved0 (x : BitVec 28) (s : State) : Host.Outcome State Fault Refusal := refuseReserved (.reserved0 x) s
/-- Opcode `0x5` (R57). -/
def execReserved5 (x : BitVec 28) (s : State) : Host.Outcome State Fault Refusal := refuseReserved (.reserved5 x) s
/-- Opcode `0x6` (R57). -/
def execReserved6 (x : BitVec 28) (s : State) : Host.Outcome State Fault Refusal := refuseReserved (.reserved6 x) s
/-- Opcode `0x7` (R57). -/
def execReserved7 (x : BitVec 28) (s : State) : Host.Outcome State Fault Refusal := refuseReserved (.reserved7 x) s
/-- Opcode `0xE` (R57). -/
def execReservedE (x : BitVec 28) (s : State) : Host.Outcome State Fault Refusal := refuseReserved (.reservedE x) s
/-- Opcode `0xF` (R57). -/
def execReservedF (x : BitVec 28) (s : State) : Host.Outcome State Fault Refusal := refuseReserved (.reservedF x) s

end Sys2Proof.Machine
end

