-- ==== Sys2Proof/Machine/Dispatch.lean ====
section
/-! DEFINITION. One arm per row of spec/opcode_table.json. -/

namespace Sys2Proof.Machine

def exec (i : Instr) (s : State) : Host.Outcome State Fault Refusal :=
  match i with
  | .gpioConfigure d => Sys2Proof.Machine.execGpioConfigure d s
  | .gpioWrite p n l => Sys2Proof.Machine.execGpioWrite p n l s
  | .gpioRead p n => Sys2Proof.Machine.execGpioRead p n s
  | .gpioToggle p n => Sys2Proof.Machine.execGpioToggle p n s
  | .lcdInit => Sys2Proof.Machine.execLcdInit s
  | .lcdClear => Sys2Proof.Machine.execLcdClear s
  | .lcdHome => Sys2Proof.Machine.execLcdHome s
  | .lcdSetCursor row col => Sys2Proof.Machine.execLcdSetCursor row col s
  | .lcdPrintChar c => Sys2Proof.Machine.execLcdPrintChar c s
  | .lcdPrintString str => Sys2Proof.Machine.execLcdPrintString str s
  | .reserved0 x => Sys2Proof.Machine.execReserved0 x s
  | .reserved5 x => Sys2Proof.Machine.execReserved5 x s
  | .reserved6 x => Sys2Proof.Machine.execReserved6 x s
  | .reserved7 x => Sys2Proof.Machine.execReserved7 x s
  | .reservedE x => Sys2Proof.Machine.execReservedE x s
  | .reservedF x => Sys2Proof.Machine.execReservedF x s
  | .clearDisplay => Sys2Proof.Machine.execClearDisplay s
  | .returnHome x => Sys2Proof.Machine.execReturnHome x s
  | .entryModeSet id sh => Sys2Proof.Machine.execEntryModeSet id sh s
  | .displayControl d c b => Sys2Proof.Machine.execDisplayControl d c b s
  | .cursorDisplayShift sc rl x => Sys2Proof.Machine.execCursorDisplayShift sc rl x s
  | .functionSet dl n f x => Sys2Proof.Machine.execFunctionSet dl n f x s
  | .setCgramAddress a => Sys2Proof.Machine.execSetCgramAddress a s
  | .setDdramAddress a => Sys2Proof.Machine.execSetDdramAddress a s

end Sys2Proof.Machine
end

