-- ==== Sys2Proof/Machine/Fetch.lean ====
section
/-! DEFINITION. Where a step finds what it does next: the next step of the operation in progress, or, when the block is
idle, what the host and the platform present (spec/10_state.md R27; spec/70_reset_and_hazards.md R116, R126, R127). -/

namespace Sys2Proof.Machine

/-- What a step is about to do, and the state it does it in. -/
inductive Fetched where
  /-- Idle and nothing presented, or a string request not complete yet: the block waits (R56, R116). -/
  | nothing
  /-- A decoded instruction. -/
  | run (i : Instr) (s : State)
  /-- A small step of the operation in progress. -/
  | micro (a : Action) (s : State)
  /-- An event of the world outside that is no request. -/
  | outside (e : WorldEvent) (s : State)
  /-- What stands there has no meaning. -/
  | stop (r : Refusal)
  /-- The sequencer has no step left. -/
  | lost (f : Fault)

/-- The next small step of an operation in progress: the first of the nested steps of what comes next, the others left in
front of the rest (R27, R90). A byte to be taken whole is decoded and run as the LCD instruction it is (R59, log 10). -/
def fetchBusy (op : Instr) (todo : List Action) (s : State) : Fetched :=
  match todo with
  | [] => .lost .noNextStep
  | .instructionByte b :: rest =>
    match decodeByte b with
    | .ok i => .run i { s with seq := .busy op rest }
    | .error _ => .stop .notAnLcdInstruction
  | a :: rest =>
    match smallSteps s a with
    | [] => .lost .noNextStep
    | first :: more => .micro first { s with seq := .busy op (more ++ rest) }

/-- What the host presents to an idle block: a request is accepted when its last byte is there (R51, R56, R57).
DESIGN CHOICE, log 28: a string request that is not complete holds up everything behind it in the inbox, events of the
platform too. -/
def fetchIdle (s : State) : Fetched :=
  match s.inbox with
  | [] => .nothing
  | .request w :: rest =>
    match decodeRequest w s.stream with
    | .ok (i, stream) => .run i { s with inbox := rest, stream := stream }
    | .error .incompleteString => .nothing
    | .error _ => .stop .reservedRequest
  | .world e :: rest => .outside e { s with inbox := rest }

/-- A reset of the block comes before anything else, at whatever point the sequencer is (R116). -/
def fetch (s : State) : Fetched :=
  match s.inbox with
  | .world .reset :: rest => .outside .reset { s with inbox := rest }
  | _ =>
    match s.seq with
    | .busy op todo => fetchBusy op todo s
    | .idle => fetchIdle s

/-! ## What the world outside does -/

/-- The eight storage registers of a port as a platform reset leaves them: free values (R32, log 17). -/
def freePort (n p : Nat) : Port :=
  ⟨Config.resetWord n (8 * p), Config.resetWord n (8 * p + 1), Config.resetWord n (8 * p + 2),
   Config.resetWord n (8 * p + 3), Config.resetWord n (8 * p + 4), Config.resetWord n (8 * p + 5),
   Config.resetWord n (8 * p + 6), Config.resetWord n (8 * p + 7)⟩

/-- A (port, pin) pair taken from a free word. -/
def freePin (n k : Nat) : PinRef :=
  ⟨(Config.resetWord n k).extractLsb' 4 4, (Config.resetWord n k).extractLsb' 0 4⟩

/-- The LCD unit as a platform reset leaves it: the two flags 0, the other registers free values (R32, log 17). -/
def freeLpd (n : Nat) : Lpd where
  lmap := ⟨freePin n 128, freePin n 129, freePin n 130, freePin n 131, freePin n 132, freePin n 133, freePin n 134⟩
  rows := (Config.resetWord n 135).extractLsb' 0 8
  cols := (Config.resetWord n 136).extractLsb' 0 8
  curRow := (Config.resetWord n 137).extractLsb' 0 8
  curCol := (Config.resetWord n 138).extractLsb' 0 8
  emId := (Config.resetWord n 139).getLsbD 0
  emS := (Config.resetWord n 140).getLsbD 0
  initDone := false
  if4 := false

/-- A reset of the block within a run, idle or busy (R116): every element as R32 says, what R32 leaves open a free value. -/
def platformReset (s : State) : State :=
  { s with
    ports := Vector.ofFn fun p : Fin 16 => freePort s.freeIx p.val
    lpd := freeLpd s.freeIx
    seq := .idle
    resp := ⟨if (Config.resetWord s.freeIx 141).getLsbD 0 then .noEffect else .ok,
             (Config.resetWord s.freeIx 142).getLsbD 0⟩
    trace := []
    freeIx := s.freeIx + 1 }

/-- Another agent's write to a port register between two operations: the register changes as in R41, the trace, which
records what the block does, does not (R28, R127; log 18). -/
def outsideWrite (p : PortIx) (r : Reg) (v : Word) (s : State) : Host.Outcome State Fault Refusal :=
  match firstRefusal (portChecks s p) with
  | some e => .refused e
  | none => .next (setPort p ((port s p).write r v) s)

/-- An event of the world outside: a reset at any block, the others at an idle one. -/
def outside (e : WorldEvent) (s : State) : Host.Outcome State Fault Refusal :=
  match e with
  | .clken v => .next { s with clken := v }
  | .portWrite p r v => outsideWrite p r v s
  | .reset => .next (platformReset s)

/-! ## Placing one table word -/

/-- The platform is about to reset the block. -/
def isReset : HostEvent → Bool
  | .world .reset => true
  | .world (.clken _) => false
  | .world (.portWrite _ _ _) => false
  | .request _ => false

/-- A request word, and zeros for its operand bytes, put in front of what an idle block is presented; an LCD instruction
byte put in front of the steps a busy sequencer has to perform, with no reset before it (log 7, log 10). -/
def placeWord (s : State) (nbits w : Nat) : State :=
  if nbits = 8 then
    let b : Byte := BitVec.ofNat 8 w
    let inbox := s.inbox.dropWhile isReset
    match s.seq with
    | .busy op todo => { s with seq := .busy op (.instructionByte b :: todo), inbox := inbox }
    | .idle =>
      match decodeByte b with
      | .ok i => { s with seq := .busy i [.instructionByte b, .respond .ok false], inbox := inbox }
      | .error _ => { s with seq := .busy .clearDisplay [.instructionByte b, .respond .ok false], inbox := inbox }
  else
    { s with
      seq := .idle
      inbox := .request (BitVec.ofNat 32 w) :: s.inbox
      stream :=
        if reqOpc (BitVec.ofNat 32 w) = 0xD#4 then
          List.replicate (reqLen (BitVec.ofNat 32 w)).toNat 0#8 ++ s.stream
        else s.stream }

end Sys2Proof.Machine
end

