-- ==== Sys2Proof/Machine/Step.lean ====
section
/-! DEFINITION. One step of the machine: an idle block runs the next request to its response (spec/00_scope.md R2), a busy
one performs the next small step of its operation (spec/10_state.md R27), and a reset comes before both
(spec/70_reset_and_hazards.md R116). -/

namespace Sys2Proof.Machine

def step (s : State) : Host.Outcome State Fault Refusal :=
  match fetch s with
  | .nothing => .next s
  | .run i t => exec i t
  | .micro a t => toOutcome (perform a t)
  | .outside e t => outside e t
  | .stop r => .refused r
  | .lost f => .fault f

/-- `s` with one word of the opcode table where `step` takes its next instruction from. -/
def State.withFetchWord (s : State) (nbits w : Nat) : State := placeWord s nbits w

end Sys2Proof.Machine
end

