-- ==== Sys2Proof/Machine/Views.lean ====
section
/-! DEFINITION. Views of what the block has done, for stating its properties: the sequence of each operation, the events
each micro-operation appends, what a list of events does to the ports, durations (spec/70_reset_and_hazards.md R125), and
the line view and the transfer view of spec/41_lcd_primitives.md R81. None of them adds behaviour. -/

namespace Sys2Proof.Machine

/-! ## Sequences -/

/-- The sequence an accepted operation runs from `s` (R69 to R72, R82, R94 to R98); a reserved opcode and an LCD
instruction byte are no operations and have none. -/
def stepsOf (i : Instr) (s : State) : List Action :=
  match i with
  | .gpioConfigure none => [.respond .ok false]
  | .gpioConfigure (some d) => configureSteps d
  | .gpioWrite p n l => [.writeLevel p n l, .respond .ok false]
  | .gpioRead p n => [.readLevel p n]
  | .gpioToggle p n => [.toggle p n, .respond .ok false]
  | .lcdInit => initSteps
  | .lcdClear => clearSteps
  | .lcdHome => homeSteps
  | .lcdSetCursor row col => setCursorSteps row col s
  | .lcdPrintChar c => charSteps c ++ [.respond .ok false]
  | .lcdPrintString str => stringSteps str
  | .reserved0 _ | .reserved5 _ | .reserved6 _ | .reserved7 _ | .reservedE _ | .reservedF _ => []
  | .clearDisplay | .returnHome _ | .entryModeSet _ _ | .displayControl _ _ _ | .cursorDisplayShift _ _ _
  | .functionSet _ _ _ _ | .setCgramAddress _ | .setDdramAddress _ => []

/-- A request the host can present, other than a reserved opcode (R52). -/
def isOperation : Instr → Bool
  | .gpioConfigure _ | .gpioWrite _ _ _ | .gpioRead _ _ | .gpioToggle _ _ | .lcdInit | .lcdClear | .lcdHome
  | .lcdSetCursor _ _ | .lcdPrintChar _ | .lcdPrintString _ => true
  | .reserved0 _ | .reserved5 _ | .reserved6 _ | .reserved7 _ | .reservedE _ | .reservedF _ => false
  | .clearDisplay | .returnHome _ | .entryModeSet _ _ | .displayControl _ _ _ | .cursorDisplayShift _ _ _
  | .functionSet _ _ _ _ | .setCgramAddress _ | .setDdramAddress _ => false

/-- The five LCD operations after initialization (R93). -/
def isLcdOperation : Instr → Bool
  | .lcdClear | .lcdHome | .lcdSetCursor _ _ | .lcdPrintChar _ | .lcdPrintString _ => true
  | .gpioConfigure _ | .gpioWrite _ _ _ | .gpioRead _ _ | .gpioToggle _ _ | .lcdInit => false
  | .reserved0 _ | .reserved5 _ | .reserved6 _ | .reserved7 _ | .reservedE _ | .reservedF _ => false
  | .clearDisplay | .returnHome _ | .entryModeSet _ _ | .displayControl _ _ _ | .cursorDisplayShift _ _ _
  | .functionSet _ _ _ _ | .setCgramAddress _ | .setDdramAddress _ => false

/-- The six reserved opcodes (R57). -/
def isReserved : Instr → Bool
  | .reserved0 _ | .reserved5 _ | .reserved6 _ | .reserved7 _ | .reservedE _ | .reservedF _ => true
  | .gpioConfigure _ | .gpioWrite _ _ _ | .gpioRead _ _ | .gpioToggle _ _ | .lcdInit | .lcdClear | .lcdHome
  | .lcdSetCursor _ _ | .lcdPrintChar _ | .lcdPrintString _ => false
  | .clearDisplay | .returnHome _ | .entryModeSet _ _ | .displayControl _ _ _ | .cursorDisplayShift _ _ _
  | .functionSet _ _ _ _ | .setCgramAddress _ | .setDdramAddress _ => false

/-- The eight LCD instruction bytes (R59). -/
def isCommandByte : Instr → Bool
  | .clearDisplay | .returnHome _ | .entryModeSet _ _ | .displayControl _ _ _ | .cursorDisplayShift _ _ _
  | .functionSet _ _ _ _ | .setCgramAddress _ | .setDdramAddress _ => true
  | .gpioConfigure _ | .gpioWrite _ _ _ | .gpioRead _ _ | .gpioToggle _ _ | .lcdInit | .lcdClear | .lcdHome
  | .lcdSetCursor _ _ | .lcdPrintChar _ | .lcdPrintString _ => false
  | .reserved0 _ | .reserved5 _ | .reserved6 _ | .reserved7 _ | .reservedE _ | .reservedF _ => false

/-! ## Events of the micro-operations -/

/-- The one event of `Drive(role, L)` (R75). -/
def driveEvent (m : LineMap) (r : Role) (l : Level) : Event := .wr (m.pin r).port .bsr (bsrWord (m.pin r).pin l)

/-- The eight events of `SendNibble(n)` (R76). -/
def nibbleEvents (c : Cfg) (m : LineMap) (n : Nibble) : List Event :=
  [ driveEvent m .d0 (n.getLsbD 0), driveEvent m .d1 (n.getLsbD 1), driveEvent m .d2 (n.getLsbD 2),
    driveEvent m .d3 (n.getLsbD 3), driveEvent m .e true, .wait c.tEH, driveEvent m .e false, .wait c.tEL ]

/-- The events of `SendByte(b)` (R77). -/
def byteEvents (c : Cfg) (m : LineMap) (b : Byte) : List Event :=
  nibbleEvents c m (highNibble b) ++ nibbleEvents c m (lowNibble b)

/-- The events of `SendCommand(b)` (R78). -/
def commandEvents (c : Cfg) (m : LineMap) (b : Byte) : List Event := driveEvent m .rs false :: byteEvents c m b

/-- The events of `SendData(b)` (R79). -/
def dataEvents (c : Cfg) (m : LineMap) (b : Byte) : List Event := driveEvent m .rs true :: byteEvents c m b

/-- The two events of a field update that finds the value `a` in the register (R42). -/
def fieldEvents (p : PortIx) (r : Reg) (off w : Nat) (val a : Word) : List Event :=
  [.wr p r (fieldClear off w a), .wr p r (fieldSet off val (fieldClear off w a))]

/-- What one event does to the ports: a `WR` writes its register (R41, R81). -/
def replay (ps : Vector Port 16) (e : Event) : Vector Port 16 :=
  match e with
  | .wr p r v => putPort ps p ((portAt ps p).write r v)
  | .rdi _ _ => ps
  | .wait _ => ps

/-- What a list of events, in order, does to the ports (R81). -/
def replayAll (ps : Vector Port 16) (es : List Event) : Vector Port 16 := es.foldl replay ps

/-- The state after a list of events has happened and nothing else: the ports replayed, the trace longer. -/
def after (es : List Event) (s : State) : State :=
  { s with ports := replayAll s.ports es, trace := s.trace ++ es }

/-- The register writes of a present descriptor on a port that holds `q` (R69): four field updates, and a fifth in
Alternate-Function mode. -/
def configureEvents (q : Port) (d : Descriptor) : List Event :=
  fieldEvents d.port .mode (2 * d.pin.toNat) 2 (d.mode.zeroExtend 32) q.mode ++
  fieldEvents d.port .otype d.pin.toNat 1 (d.otype.zeroExtend 32) q.otype ++
  fieldEvents d.port .speed (2 * d.pin.toNat) 2 (d.speed.zeroExtend 32) q.speed ++
  fieldEvents d.port .pull (2 * d.pin.toNat) 2 (d.pull.zeroExtend 32) q.pull ++
  (if d.mode = 0b10#2 then
    (if d.pin.toNat ≤ 7 then fieldEvents d.port .afl (4 * d.pin.toNat) 4 (d.af.zeroExtend 32) q.afl
     else fieldEvents d.port .afh (4 * (d.pin.toNat - 8)) 4 (d.af.zeroExtend 32) q.afh)
   else [])

/-- The descriptor phase P2 of `LCD_INIT` programs a role's pin with (R84). -/
def lineDescriptor (c : Cfg) (r : Role) : Descriptor :=
  ⟨(c.linemap.pin r).port, (c.linemap.pin r).pin, 0b01, 0, c.pinSpeed, 0b00, 0⟩

/-- The register writes of phase P2 for the roles of a list, from ports `ps` (R84). -/
def setupEvents (c : Cfg) : List Role → Vector Port 16 → List Event
  | [], _ => []
  | r :: rest, ps =>
    let es := configureEvents (portAt ps (c.linemap.pin r).port) (lineDescriptor c r)
    es ++ setupEvents c rest (replayAll ps es)

/-- Phases P1 and P2 of `LCD_INIT` (R84): what happens before the power-on wait. -/
def initPreamble (c : Cfg) (ps : Vector Port 16) : List Event :=
  let low := Role.all.map fun r => driveEvent c.linemap r false
  low ++ setupEvents c Role.all (replayAll ps low)

/-- The source's four steps of `LCD_INIT` (R85 to R88), from the power-on wait on. -/
def initProtocol (c : Cfg) : List Event :=
  [.wait 40000] ++ nibbleEvents c c.linemap 0x3 ++ [.wait 4100] ++ nibbleEvents c c.linemap 0x3 ++ [.wait 100] ++
  nibbleEvents c c.linemap 0x3 ++ nibbleEvents c c.linemap 0x2 ++ commandEvents c c.linemap 0x28 ++
  commandEvents c c.linemap 0x0C ++ commandEvents c c.linemap 0x06 ++ commandEvents c c.linemap 0x01 ++ [.wait 1520]

/-! ## Counts and durations -/

def isWr : Event → Bool
  | .wr _ _ _ => true
  | .rdi _ _ => false
  | .wait _ => false

/-- The wait an event contributes (R125). -/
def waitOf : Event → Nat
  | .wr _ _ _ => 0
  | .rdi _ _ => 0
  | .wait d => d

def isWait : Event → Bool
  | .wr _ _ _ => false
  | .rdi _ _ => false
  | .wait _ => true

/-- The least time, in µs, a list of events takes (R7, R125). -/
def waitTime (es : List Event) : Nat := (es.map waitOf).sum

/-! ## Line view -/

/-- `level(r) = PORT[p].ODATA[n]` with `LMAP[r] = (p, n)` (R81). -/
def lineLevel (ps : Vector Port 16) (m : LineMap) (r : Role) : Level :=
  (portAt ps (m.pin r).port).odata.getLsbD (m.pin r).pin.toNat

/-- What the controller samples at a falling edge of the enable line (R81). -/
structure Latch where
  rs     : Level
  rw     : Level
  nibble : Nibble
deriving DecidableEq, Repr

/-- The lines as the controller samples them (R81). -/
def sample (ps : Vector Port 16) (m : LineMap) : Latch :=
  ⟨lineLevel ps m .rs, lineLevel ps m .rw,
   BitVec.ofBool (lineLevel ps m .d3) ++ BitVec.ofBool (lineLevel ps m .d2) ++ BitVec.ofBool (lineLevel ps m .d1) ++
     BitVec.ofBool (lineLevel ps m .d0)⟩

/-- The latched nibbles of a list of events, from the ports it starts at (R81). -/
def latches (m : LineMap) : Vector Port 16 → List Event → List Latch
  | _, [] => []
  | ps, e :: rest =>
    if lineLevel ps m .e && !lineLevel (replay ps e) m .e then sample ps m :: latches m (replay ps e) rest
    else latches m (replay ps e) rest

/-- The latched nibbles, each with the time from the falling edge before it (from the start, for the first), as the
`WAIT` events between give it. -/
def timedLatches (m : LineMap) : Nat → Vector Port 16 → List Event → List (Nat × Latch)
  | _, _, [] => []
  | d, ps, e :: rest =>
    if lineLevel ps m .e && !lineLevel (replay ps e) m .e then
      (d, sample ps m) :: timedLatches m 0 (replay ps e) rest
    else timedLatches m (d + waitOf e) (replay ps e) rest

/-! ## Transfer view -/

/-- An item of the transfer view (R81). -/
inductive Item where
  | nib (rs : Level) (n : Nibble)
  | wait (d : Nat)
deriving DecidableEq, Repr

/-- A step unfolded as far as `SendNibble` (R77 to R79): what `TT` unfolds, and the points outside `SendNibble` that R80
speaks of lie between these steps. -/
def transferSteps (a : Action) : List Action :=
  match a with
  | .command b => [.drive .rs false, .nibble (highNibble b), .nibble (lowNibble b)]
  | .instructionByte b => [.drive .rs false, .nibble (highNibble (sentByte b)), .nibble (lowNibble (sentByte b))]
  | .data b => [.drive .rs true, .nibble (highNibble b), .nibble (lowNibble b)]
  | .fieldWrite _ _ _ _ _ | .clearField _ _ _ _ | .setField _ _ _ _ | .writeLevel _ _ _ | .readLevel _ _ | .toggle _ _
  | .drive _ _ | .wait _ | .nibble _ | .latch | .setupPin _ | .selectFourBit | .entryMode _ _ | .cursor _ _ | .advance
  | .initDone | .respond _ _ => [a]

/-- `TT` of one unfolded step: a nibble is an item with the level of the register-select line at that moment (R81). -/
def itemsAt (s : State) (a : Action) : List Item :=
  match a with
  | .nibble n => [.nib (lineLevel s.ports s.lpd.lmap .rs) n]
  | .wait d => [.wait d]
  | .command _ | .instructionByte _ | .data _ | .fieldWrite _ _ _ _ _ | .clearField _ _ _ _ | .setField _ _ _ _
  | .writeLevel _ _ _ | .readLevel _ _ | .toggle _ _ | .drive _ _ | .latch | .setupPin _ | .selectFourBit
  | .entryMode _ _ | .cursor _ _ | .advance | .initDone | .respond _ _ => []

/-- `TT` of unfolded steps performed one after another (R81). -/
def viewFrom : List Action → State → List Item
  | [], _ => []
  | a :: rest, s =>
    itemsAt s a ++
      match perform a s with
      | .ok t => viewFrom rest t
      | .error _ => []

/-- `TT`, of a sequence that runs from `s` (R81). -/
def transferView (steps : List Action) (s : State) : List Item := viewFrom (steps.flatMap transferSteps) s

/-- The nibble items of a transfer view as the controller latches them, with read/write Low (R81). -/
def latchesOf : List Item → List Latch
  | [] => []
  | .nib rs n :: rest => ⟨rs, false, n⟩ :: latchesOf rest
  | .wait _ :: rest => latchesOf rest

/-- The same, each with the time R81 gives from the falling edge before it: `T_EL`, the waits between, `T_EH`; `d` is the
time since the edge before the list. -/
def timedItems (c : Cfg) : Nat → List Item → List (Nat × Latch)
  | _, [] => []
  | d, .nib rs n :: rest => (d + c.tEH, ⟨rs, false, n⟩) :: timedItems c c.tEL rest
  | d, .wait w :: rest => timedItems c (d + w) rest

/-! ## Sessions -/

/-- Instructions run one after another, each from where the one before ended (R126). -/
def runAll : List Instr → State → Host.Outcome State Fault Refusal
  | [], s => .next s
  | i :: rest, s =>
    match exec i s with
    | .next t => runAll rest t
    | .fault f => .fault f
    | .refused r => .refused r

/-- The transfer view of instructions run one after another (R81). -/
def sessionView : List Instr → State → List Item
  | [], _ => []
  | i :: rest, s =>
    transferView (stepsOf i s) s ++
      match exec i s with
      | .next t => sessionView rest t
      | .fault _ => []
      | .refused _ => []

end Sys2Proof.Machine
end

