-- ==== Sys2Proof/Safety.lean ====
section
/-! DEFINITION. What counts as a safe machine, in the terms the statements use: well-formed configurations
(spec/00_scope.md R6), the session invariant, the bus invariant of spec/41_lcd_primitives.md R80, and the pins the LCD unit
owns (spec/70_reset_and_hazards.md R121). -/

/-- R6, clause by clause (clauses 3 and 6 as to the natural numbers; `lcdRows <= 255` and `pin <= 15` by width). -/
structure Sys2Proof.Cfg.WellFormed (c : Sys2Proof.Cfg) : Prop where
  nports_pos : 1 ≤ c.nports
  nports_le : c.nports ≤ 16
  ports_exist : ∀ r ∈ Sys2Proof.Role.all, (c.linemap.pin r).port.toNat < c.nports
  rows_pos : 1 ≤ c.lcdRows.toNat
  cols_pos : 1 ≤ c.lcdCols.toNat
  rows_listed : c.lcdRows.toNat ≤ c.rowBaseFrom2.length + 2
  addresses_fit : ∀ r, r < c.lcdRows.toNat → (c.rowBase r).toNat + c.lcdCols.toNat - 1 ≤ 0x7F
  distinct : c.linemap.Distinct
  tEH_pos : 1 ≤ c.tEH
  tEL_pos : 1 ≤ c.tEL

namespace Sys2Proof.Machine

/-- While `INIT_DONE = 1` the session registers hold what `LCD_INIT` put there, but for the tracked cursor (R25, R32
last paragraph). -/
def SessionLatched (s : State) : Prop :=
  s.lpd.initDone = true →
    s.lpd.lmap = s.cfg.linemap ∧ s.lpd.rows = s.cfg.lcdRows ∧ s.lpd.cols = s.cfg.lcdCols ∧
    s.lpd.emId = true ∧ s.lpd.emS = false ∧ s.lpd.if4 = true

/-- Between two big steps: the sequencer is idle and the session invariant holds (R126). -/
def Settled (s : State) : Prop := s.seq = .idle ∧ SessionLatched s

/-- The functional-mode code of a role's pin (R12). -/
def lineMode (ps : Vector Port 16) (m : LineMap) (r : Role) : Word :=
  fieldGet (off2 (m.pin r).pin) 2 (portAt ps (m.pin r).port).mode

/-- R80, first, second and last line: enable Low, read/write Low, the seven pins in Output mode. -/
def LinesLow (s : State) : Prop :=
  lineLevel s.ports s.lpd.lmap .e = false ∧ lineLevel s.ports s.lpd.lmap .rw = false ∧
  ∀ r ∈ Role.all, lineMode s.ports s.lpd.lmap r = 0b01#32

/-- R80, third line: the register-select line is at the level the last transaction drove it to. -/
def RegisterSelectShown (s : State) : Prop :=
  ∃ before l later, s.trace = before ++ driveEvent s.lpd.lmap .rs l :: later ∧
    (∀ e ∈ later, ∀ l', e ≠ driveEvent s.lpd.lmap .rs l') ∧ lineLevel s.ports s.lpd.lmap .rs = l

/-- R80, fourth line and the time of the first: the data lines show the last nibble sent, and neither they nor enable have
been driven since the `WAIT(T_EL)` that ends it. -/
def NibbleShown (s : State) : Prop :=
  ∃ before n later, s.trace = before ++ nibbleEvents s.cfg s.lpd.lmap n ++ later ∧
    (∀ e ∈ later, ∀ r ∈ [Role.e, .d0, .d1, .d2, .d3], ∀ l, e ≠ driveEvent s.lpd.lmap r l) ∧
    (sample s.ports s.lpd.lmap).nibble = n

/-- R80 whole, at one point. -/
def BusHolds (s : State) : Prop := LinesLow s ∧ RegisterSelectShown s ∧ NibbleShown s

/-- R80 at an idle block: it holds while `INIT_DONE = 1`. -/
def BusQuiet (s : State) : Prop := s.lpd.initDone = true → BusHolds s

/-- The platform is not about to reset the block. -/
abbrev NoReset (s : State) : Prop := ∀ rest, s.inbox ≠ .world .reset :: rest

/-- The pin belongs to the LCD unit (R121). -/
def ownedByLcd (m : LineMap) (p : PortIx) (n : PinIx) : Prop := ∃ r ∈ Role.all, m.pin r = ⟨p, n⟩

/-- The instruction does not name a pin of the LCD unit (the discipline of R121). -/
def keepsOffLcdPins (m : LineMap) : Instr → Prop
  | .gpioConfigure (some d) => ¬ ownedByLcd m d.port d.pin
  | .gpioWrite p n _ => ¬ ownedByLcd m p n
  | .gpioToggle p n => ¬ ownedByLcd m p n
  | .gpioConfigure none | .gpioRead _ _ | .lcdInit | .lcdClear | .lcdHome | .lcdSetCursor _ _ | .lcdPrintChar _
  | .lcdPrintString _ => True
  | .reserved0 _ | .reserved5 _ | .reserved6 _ | .reserved7 _ | .reservedE _ | .reservedF _ => True
  | .clearDisplay | .returnHome _ | .entryModeSet _ _ | .displayControl _ _ _ | .cursorDisplayShift _ _ _
  | .functionSet _ _ _ _ | .setCgramAddress _ | .setDdramAddress _ => True

/-- Every line of a map lies on a port that exists and whose clock is on (R82, R93, R47). -/
abbrev LinesReady (s : State) (m : LineMap) : Prop :=
  ∀ r ∈ Role.all, (m.pin r).port.toNat < s.cfg.nports ∧ s.clken.getLsbD (m.pin r).port.toNat = true

/-- When a PRM operation on port `p` is accepted, but for the pull code (R68). -/
abbrev PortReady (s : State) (p : PortIx) : Prop :=
  s.seq = .idle ∧ p.toNat < s.cfg.nports ∧ s.clken.getLsbD p.toNat = true

/-- When an LCD operation other than `LCD_INIT` is accepted (R93). -/
abbrev LcdReady (s : State) : Prop := s.seq = .idle ∧ s.lpd.initDone = true ∧ LinesReady s s.lpd.lmap

/-- When `LCD_INIT` is accepted (R82). -/
abbrev InitReady (s : State) : Prop := s.seq = .idle ∧ LinesReady s s.cfg.linemap

/-- The port a PRM operation names (R53, R54); none for the absent descriptor and for what is no PRM operation. -/
def prmPort : Instr → Option PortIx
  | .gpioConfigure (some d) => some d.port
  | .gpioWrite p _ _ => some p
  | .gpioRead p _ => some p
  | .gpioToggle p _ => some p
  | .gpioConfigure none | .lcdInit | .lcdClear | .lcdHome | .lcdSetCursor _ _ | .lcdPrintChar _ | .lcdPrintString _ => none
  | .reserved0 _ | .reserved5 _ | .reserved6 _ | .reserved7 _ | .reservedE _ | .reservedF _ => none
  | .clearDisplay | .returnHome _ | .entryModeSet _ _ | .displayControl _ _ _ | .cursorDisplayShift _ _ _
  | .functionSet _ _ _ _ | .setCgramAddress _ | .setDdramAddress _ => none

/-- The registers of its port a PRM operation may change (R69 to R72). -/
def prmWrites : Instr → List Reg
  | .gpioConfigure (some d) =>
    [.mode, .otype, .speed, .pull] ++
      (if d.mode = 0b10#2 then (if d.pin.toNat ≤ 7 then [.afl] else [.afh]) else [])
  | .gpioWrite _ _ _ => [.odata]
  | .gpioToggle _ _ => [.odata]
  | .gpioConfigure none | .gpioRead _ _ | .lcdInit | .lcdClear | .lcdHome | .lcdSetCursor _ _ | .lcdPrintChar _
  | .lcdPrintString _ => []
  | .reserved0 _ | .reserved5 _ | .reserved6 _ | .reserved7 _ | .reservedE _ | .reservedF _ => []
  | .clearDisplay | .returnHome _ | .entryModeSet _ _ | .displayControl _ _ _ | .cursorDisplayShift _ _ _
  | .functionSet _ _ _ _ | .setCgramAddress _ | .setDdramAddress _ => []

/-- Two ports hold the same in every register but those named. -/
def samePortBut (rs : List Reg) (a b : Port) : Prop := ∀ r, r ∉ rs → b.stored r = a.stored r

/-- The states agree outside the ports, the LCD unit, the sequencer, the response and the trace: on the configuration,
on the inputs and on what is waiting outside. -/
def sameWorld (s t : State) : Prop :=
  t.cfg = s.cfg ∧ t.clken = s.clken ∧ t.inbox = s.inbox ∧ t.stream = s.stream

end Sys2Proof.Machine
end

