-- ==== Sys2Proof/Certificates/Slice0/Obligations.lean ====
section
/-! DEFINITION. The statements for the provers, each with the rule of spec/ it formalises. -/

open Sys2Proof Sys2Proof.Machine

/-! ## Encoding -/

/-- R51 to R60: decoding an encoded instruction gives it back with every operand, and leaves what waits behind it on
the operand stream. -/
def Obligations.DecodeEncodeRoundTrip : Prop :=
  ∀ (i : Instr) (more : List Byte), i.wellFormed = true → decode (encode i) more = .ok (i, more)

/-- R51, R53, R56: the other direction. A request word that decodes is the encoding of what it decodes to, operand
bytes included; the ignored bits of an absent descriptor are the one exception. -/
def Obligations.RequestWordIsItsEncoding : Prop :=
  ∀ (w : Word) (stream rest : List Byte) (i : Instr), decodeRequest w stream = .ok (i, rest) →
    i.wellFormed = true ∧
    (i ≠ .gpioConfigure none → ∃ bytes, encode i = .request w bytes ∧ stream = bytes ++ rest)

/-- R52, R57: the decoder accepts exactly the words of the opcode table; the others have a reserved bit that is 1. -/
def Obligations.RequestWordsOfTheTable : Prop :=
  ∀ (w : Word) (stream : List Byte),
    (∃ row ∈ requestRows, w &&& row.1 = row.2) ↔ decodeRequest w stream ≠ .error .reservedBits

/-- R59: each row of the table of LCD instruction bytes, with its mask and match; every byte but `0x00` is one of them,
and is the byte its instruction is encoded as. -/
def Obligations.CommandByteRows : Prop :=
  ∀ b : Byte,
    (b &&& 0xFF#8 = 0x01#8 ↔ decodeByte b = .ok .clearDisplay) ∧
    (b &&& 0xFE#8 = 0x02#8 ↔ ∃ x, decodeByte b = .ok (.returnHome x)) ∧
    (b &&& 0xFC#8 = 0x04#8 ↔ ∃ id sh, decodeByte b = .ok (.entryModeSet id sh)) ∧
    (b &&& 0xF8#8 = 0x08#8 ↔ ∃ d c k, decodeByte b = .ok (.displayControl d c k)) ∧
    (b &&& 0xF0#8 = 0x10#8 ↔ ∃ sc rl x, decodeByte b = .ok (.cursorDisplayShift sc rl x)) ∧
    (b &&& 0xE0#8 = 0x20#8 ↔ ∃ dl n f x, decodeByte b = .ok (.functionSet dl n f x)) ∧
    (b &&& 0xC0#8 = 0x40#8 ↔ ∃ a, decodeByte b = .ok (.setCgramAddress a)) ∧
    (b &&& 0x80#8 = 0x80#8 ↔ ∃ a, decodeByte b = .ok (.setDdramAddress a)) ∧
    (b = 0x00#8 ↔ decodeByte b = .error .notAnLcdInstruction) ∧
    (∀ i, decodeByte b = .ok i → encode i = .command b)

/-- Words written out in spec/95_test_vectors.md decode to what they are written for (R51, R53 to R56, R59). -/
def Obligations.SampleWordsDecode : Prop :=
  decodeRequest 0x103C8700 [] = .ok (.gpioConfigure (some ⟨0, 3, 0b10, 0, 0b10, 0b00, 7⟩), []) ∧
  decodeRequest 0x109DD500 [] = .ok (.gpioConfigure (some ⟨0, 9, 0b10, 1, 0b11, 0b01, 5⟩), []) ∧
  decodeRequest 0x10000000 [] = .ok (.gpioConfigure none, []) ∧
  decodeRequest 0x21480000 [] = .ok (.gpioWrite 1 4 true, []) ∧
  decodeRequest 0x32F00000 [] = .ok (.gpioRead 2 15, []) ∧
  decodeRequest 0x42D00000 [] = .ok (.gpioToggle 2 13, []) ∧
  decodeRequest 0x80000000 [] = .ok (.lcdInit, []) ∧
  decodeRequest 0xB010F000 [] = .ok (.lcdSetCursor 1 15, []) ∧
  decodeRequest 0xC4800000 [] = .ok (.lcdPrintChar 0x48, []) ∧
  decodeRequest 0xD0002000 [0x48, 0x49, 0x50] = .ok (.lcdPrintString [0x48, 0x49], [0x50]) ∧
  decodeByte 0x28 = .ok (.functionSet 0 1 0 0) ∧ decodeByte 0x0C = .ok (.displayControl 1 0 0) ∧
  decodeByte 0x06 = .ok (.entryModeSet 1 0) ∧ decodeByte 0x85 = .ok (.setDdramAddress 0x05)

/-! ## Stepping -/

/-- R2, R27, R90, R116: a step runs the decoded instruction. An idle block runs the next request, its word and operand
bytes taken away; a busy one performs the first small step of what comes next, or runs the LCD instruction a whole byte
is (log 9, log 10); with nothing presented, or a string not complete, the block waits (R56, R116; that what stands behind
such a string waits with it is the model's choice, log 28); a reset comes before all of these. -/
def Obligations.StepRunsDecodedInstruction : Prop :=
  ∀ s : State,
    (∀ w rest i stream, s.seq = .idle → s.inbox = .request w :: rest →
      decodeRequest w s.stream = .ok (i, stream) → step s = exec i { s with inbox := rest, stream := stream }) ∧
    (∀ op b rest i, NoReset s → s.seq = .busy op (.instructionByte b :: rest) → decodeByte b = .ok i →
      step s = exec i { s with seq := .busy op rest }) ∧
    (∀ op a rest x more, NoReset s → s.seq = .busy op (a :: rest) → (∀ b, a ≠ .instructionByte b) →
      smallSteps s a = x :: more → step s = toOutcome (perform x { s with seq := .busy op (more ++ rest) })) ∧
    (s.seq = .idle → s.inbox = [] → step s = .next s) ∧
    (∀ w rest, s.seq = .idle → s.inbox = .request w :: rest →
      decodeRequest w s.stream = .error .incompleteString → step s = .next s) ∧
    (∀ rest, s.inbox = .world .reset :: rest → step s = .next (platformReset { s with inbox := rest }))

/-- The model's interface (log 7): a table word placed by `withFetchWord` is what the very next step runs; an LCD
instruction byte goes before a reset that is pending. -/
def Obligations.PlacedWordIsRun : Prop :=
  ∀ (s : State) (w : Nat) (i : Instr),
    (decodeTableWord 32 w = some i → step (s.withFetchWord 32 w) = exec i { s with seq := .idle }) ∧
    (decodeTableWord 8 w = some i → ∀ op todo, s.seq = .busy op todo →
      step (s.withFetchWord 8 w) = exec i { s with inbox := s.inbox.dropWhile isReset })

/-- R57: the six reserved opcodes have no meaning. They are refused, while the block is busy as any request is (R27).
-/
def Obligations.ReservedOpcodesStop : Prop :=
  ∀ (i : Instr) (s : State), isReserved i = true →
    exec i s = .refused (if s.seq = .idle then .reservedRequest else .busy)

/-- R57, R68: request words that are no operation of the block, presented to an idle block. The refusals of a port
handle and of the pull code carry the names R68 and R115 give them (log 16). -/
def Obligations.IllegalRequestsRefused : Prop :=
  ∀ (s : State) (w : Word) (rest : List HostEvent), s.seq = .idle → s.inbox = .request w :: rest →
    (reqOpc w ∈ [0x0#4, 0x5#4, 0x6#4, 0x7#4, 0xE#4, 0xF#4] → step s = .refused .reservedRequest) ∧
    ((∀ row ∈ requestRows, w &&& row.1 ≠ row.2) → step s = .refused .reservedRequest) ∧
    (w &&& 0xF00000FF#32 = 0x10000000#32 → reqBit19 w = true → s.cfg.nports ≤ (reqPort w).toNat →
      step s = .refused .invalidPortHandle) ∧
    (w &&& 0xF00000FF#32 = 0x10000000#32 → reqBit19 w = true → (reqPort w).toNat < s.cfg.nports →
      (reqDescriptor w).pull = 0b11#2 → step s = .refused .reservedPullCode) ∧
    (w &&& 0xF007FFFF#32 = 0x20000000#32 ∨ w &&& 0xF00FFFFF#32 = 0x30000000#32 ∨
        w &&& 0xF00FFFFF#32 = 0x40000000#32 →
      s.cfg.nports ≤ (reqPort w).toNat → step s = .refused .invalidPortHandle)

/-- R27: a request presented while `SEQ != IDLE` is no operation of the block. -/
def Obligations.BusyBlockTakesNoRequest : Prop :=
  ∀ (i : Instr) (s : State), (isOperation i = true ∨ isReserved i = true) → s.seq ≠ .idle → exec i s = .refused .busy

/-! ## Register access -/

/-- R40. Where the environment's answer comes from is the model's own (log 6). -/
def Obligations.RegReadEffect : Prop :=
  ∀ (p : PortIx) (s : State),
    (∀ r, r ≠ .idata → r ≠ .bsr → ∃ a, (port s p).stored r = some a ∧ regRead p r s = .ok (a, s)) ∧
    regRead p .bsr s = .error .readOfWriteOnlyRegister ∧
    (∀ v rest, s.pads = v :: rest →
      regRead p .idata s = .ok (v.zeroExtend 32, { s with pads := rest, trace := s.trace ++ [.rdi p v] })) ∧
    (s.pads = [] →
      regRead p .idata s =
        .ok ((Config.padIn s.freeIx p).zeroExtend 32,
             { s with freeIx := s.freeIx + 1, trace := s.trace ++ [.rdi p (Config.padIn s.freeIx p)] }))

/-- R41, R18, R36: one register write, in every register of every port. -/
def Obligations.RegWriteEffect : Prop :=
  ∀ (p : PortIx) (r : Reg) (v : Word) (s t : State), regWrite p r v s = t →
    t = { s with ports := t.ports, trace := s.trace ++ [.wr p r v] } ∧
    (∀ p', p' ≠ p → port t p' = port s p') ∧
    (r ≠ .idata → r ≠ .bsr → (port t p).stored r = some v ∧ samePortBut [r] (port s p) (port t p)) ∧
    (r = .idata → port t p = port s p) ∧
    (r = .bsr → samePortBut [.odata] (port s p) (port t p) ∧
      ∀ i, (port t p).odata.getLsbD i =
        if i < 16 then v.getLsbD i || ((port s p).odata.getLsbD i && !v.getLsbD (i + 16))
        else (port s p).odata.getLsbD i)

/-- R42: the two writes of a field update, the final value, isolation, idempotence, and no dependence on the old value
of the field. -/
def Obligations.FieldWriteLaw : Prop :=
  ∀ (p : PortIx) (r : Reg) (off w : Nat) (val a : Word) (s : State),
    (port s p).stored r = some a → off + w ≤ 32 → val.toNat < 2 ^ w →
    ∃ t, fieldWrite p r off w val s = .ok t ∧
      t.trace = s.trace ++ [.wr p r (a &&& ~~~(fieldMask off w)), .wr p r ((a &&& ~~~(fieldMask off w)) ||| (val <<< off))] ∧
      t = { s with ports := t.ports, trace := t.trace } ∧
      (port t p).stored r = some ((a &&& ~~~(fieldMask off w)) ||| (val <<< off)) ∧
      samePortBut [r] (port s p) (port t p) ∧ (∀ p', p' ≠ p → port t p' = port s p') ∧
      (∀ b, (port t p).stored r = some b →
        fieldGet off w b = val ∧
        (∀ i, (i < off ∨ off + w ≤ i) → b.getLsbD i = a.getLsbD i)) ∧
      (∃ u, fieldWrite p r off w val t = .ok u ∧ u.ports = t.ports) ∧
      (∀ s' a' t', (port s' p).stored r = some a' → (∀ i, (i < off ∨ off + w ≤ i) → a'.getLsbD i = a.getLsbD i) →
        fieldWrite p r off w val s' = .ok t' → (port t' p).stored r = (port t p).stored r)

/-- R18: the block only ever writes to `BSR` a value with exactly one bit set. -/
def Obligations.BsrWordsHaveOneBit : Prop :=
  ∀ (i : Instr) (s t : State) (es : List Event), exec i s = .next t → t.trace = s.trace ++ es →
    ∀ p v, Event.wr p .bsr v ∈ es → ∃ k, k < 32 ∧ v = 1#32 <<< k

/-- R35, R39, R36: the ten offsets, distinct registers at distinct addresses of a port, and every field inside its
register. -/
def Obligations.RegisterMap : Prop :=
  [Reg.mode, .otype, .speed, .pull, .idata, .odata, .bsr, .lock, .afl, .afh].map regOffset =
    [0x00, 0x04, 0x08, 0x0C, 0x10, 0x14, 0x18, 0x1C, 0x20, 0x24] ∧
  (∀ (c : Cfg) (p : PortIx) (base : Nat), c.portBase[p.toNat]? = some base →
    ∀ r, regAddress c p r = some (base + regOffset r) ∧ ∀ r', regAddress c p r = regAddress c p r' → r = r') ∧
  (∀ n : PinIx, off2 n = 2 * n.toNat ∧ off2 n + 2 ≤ 32 ∧ off1 n = n.toNat ∧ off1 n + 1 ≤ 32 ∧ offAf n + 4 ≤ 32 ∧
    (n.toNat ≤ 7 → afReg n = .afl ∧ offAf n = 4 * n.toNat) ∧
    (8 ≤ n.toNat → afReg n = .afh ∧ offAf n = 4 * (n.toNat - 8)))

/-! ## Port Register Model -/

/-- R69, R102: an absent descriptor changes nothing but the response, whatever the clocks are. -/
def Obligations.ConfigureAbsentIsNoOp : Prop :=
  ∀ s : State, s.seq = .idle → exec (.gpioConfigure none) s = .next { s with resp := ⟨.ok, false⟩ }

/-- R69: the register writes of a present descriptor, in their order, and nothing else. -/
def Obligations.ConfigureResult : Prop :=
  ∀ (d : Descriptor) (s : State), PortReady s d.port → d.pull ≠ 0b11#2 →
    exec (.gpioConfigure (some d)) s =
      .next { after (configureEvents (port s d.port) d) s with resp := ⟨.ok, false⟩ }

/-- R73 law 1: after `GPIO_CONFIGURE` each field of the pin holds its code and the other bits of its register are kept;
the alternate-function field only in Alternate-Function mode. -/
def Obligations.ConfigureWritesFields : Prop :=
  ∀ (d : Descriptor) (s t : State), exec (.gpioConfigure (some d)) s = .next t →
    let q := port s d.port
    let q' := port t d.port
    let n := d.pin.toNat
    fieldGet (2 * n) 2 q'.mode = d.mode.zeroExtend 32 ∧
      q'.mode &&& ~~~(3#32 <<< (2 * n)) = q.mode &&& ~~~(3#32 <<< (2 * n)) ∧
    fieldGet n 1 q'.otype = d.otype.zeroExtend 32 ∧ q'.otype &&& ~~~(1#32 <<< n) = q.otype &&& ~~~(1#32 <<< n) ∧
    fieldGet (2 * n) 2 q'.speed = d.speed.zeroExtend 32 ∧
      q'.speed &&& ~~~(3#32 <<< (2 * n)) = q.speed &&& ~~~(3#32 <<< (2 * n)) ∧
    fieldGet (2 * n) 2 q'.pull = d.pull.zeroExtend 32 ∧
      q'.pull &&& ~~~(3#32 <<< (2 * n)) = q.pull &&& ~~~(3#32 <<< (2 * n)) ∧
    (d.mode = 0b10#2 → n ≤ 7 → fieldGet (4 * n) 4 q'.afl = d.af.zeroExtend 32 ∧
      q'.afl &&& ~~~(15#32 <<< (4 * n)) = q.afl &&& ~~~(15#32 <<< (4 * n)) ∧ q'.afh = q.afh) ∧
    (d.mode = 0b10#2 → 8 ≤ n → fieldGet (4 * (n - 8)) 4 q'.afh = d.af.zeroExtend 32 ∧
      q'.afh &&& ~~~(15#32 <<< (4 * (n - 8))) = q.afh &&& ~~~(15#32 <<< (4 * (n - 8))) ∧ q'.afl = q.afl) ∧
    (d.mode ≠ 0b10#2 → q'.afl = q.afl ∧ q'.afh = q.afh)

/-- R73 law 2: the same descriptor twice leaves the same registers as once. -/
def Obligations.ConfigureTwiceIsOnce : Prop :=
  ∀ (d : Descriptor) (s : State), PortReady s d.port → d.pull ≠ 0b11#2 →
    ∃ t u, exec (.gpioConfigure (some d)) s = .next t ∧ exec (.gpioConfigure (some d)) t = .next u ∧ u.ports = t.ports

/-- R68, R107: the order of the checks of the four PRM operations at an idle block. -/
def Obligations.PrmRefusals : Prop :=
  ∀ (d : Descriptor) (l : Level) (s : State), s.seq = .idle →
    (s.cfg.nports ≤ d.port.toNat →
      exec (.gpioConfigure (some d)) s = .refused .invalidPortHandle ∧
      exec (.gpioWrite d.port d.pin l) s = .refused .invalidPortHandle ∧
      exec (.gpioRead d.port d.pin) s = .refused .invalidPortHandle ∧
      exec (.gpioToggle d.port d.pin) s = .refused .invalidPortHandle) ∧
    (d.port.toNat < s.cfg.nports → d.pull = 0b11#2 → exec (.gpioConfigure (some d)) s = .refused .reservedPullCode) ∧
    (d.port.toNat < s.cfg.nports → s.clken.getLsbD d.port.toNat = false →
      (d.pull ≠ 0b11#2 → exec (.gpioConfigure (some d)) s = .refused .portClockDisabled) ∧
      exec (.gpioWrite d.port d.pin l) s = .refused .portClockDisabled ∧
      exec (.gpioRead d.port d.pin) s = .refused .portClockDisabled ∧
      exec (.gpioToggle d.port d.pin) s = .refused .portClockDisabled)

/-- R70: one write to `BSR`; the output bit takes the level and no other bit changes. -/
def Obligations.GpioWriteResult : Prop :=
  ∀ (p : PortIx) (n : PinIx) (l : Level) (s : State), PortReady s p →
    ∃ t, exec (.gpioWrite p n l) s = .next t ∧
      t = { after [.wr p .bsr (if l then 1#32 <<< n.toNat else 1#32 <<< (n.toNat + 16))] s with resp := ⟨.ok, false⟩ } ∧
      ∀ i, (port t p).odata.getLsbD i = if i = n.toNat then l else (port s p).odata.getLsbD i

/-- R73 law 3: High then Low leaves the bit 0 and every other bit as before the pair. -/
def Obligations.WriteHighThenLow : Prop :=
  ∀ (p : PortIx) (n : PinIx) (s : State), PortReady s p →
    ∃ t u, exec (.gpioWrite p n true) s = .next t ∧ exec (.gpioWrite p n false) t = .next u ∧
      (port u p).odata = (port s p).odata &&& ~~~(1#32 <<< n.toNat)

/-- R71: the bit of the environment's answer is the response, and no register changes. Where the answer comes from is
the model's own (log 6). -/
def Obligations.GpioReadResult : Prop :=
  ∀ (p : PortIx) (n : PinIx) (s : State), PortReady s p →
    (∀ v rest, s.pads = v :: rest →
      exec (.gpioRead p n) s =
        .next { s with pads := rest, trace := s.trace ++ [.rdi p v], resp := ⟨.ok, v.getLsbD n.toNat⟩ }) ∧
    (s.pads = [] →
      exec (.gpioRead p n) s =
        .next { s with freeIx := s.freeIx + 1, trace := s.trace ++ [.rdi p (Config.padIn s.freeIx p)],
                       resp := ⟨.ok, (Config.padIn s.freeIx p).getLsbD n.toNat⟩ })

/-- R72: one write to `ODATA` with the pin's bit inverted and the other 31 written back. -/
def Obligations.GpioToggleResult : Prop :=
  ∀ (p : PortIx) (n : PinIx) (s : State), PortReady s p →
    exec (.gpioToggle p n) s =
      .next { after [.wr p .odata ((port s p).odata ^^^ (1#32 <<< n.toNat))] s with resp := ⟨.ok, false⟩ }

/-- R73 law 4: toggling twice restores every register. -/
def Obligations.ToggleTwiceRestores : Prop :=
  ∀ (p : PortIx) (n : PinIx) (s : State), PortReady s p →
    ∃ t u, exec (.gpioToggle p n) s = .next t ∧ exec (.gpioToggle p n) t = .next u ∧ u.ports = s.ports

/-- R73 laws 5 and 6, R69 to R72: the frame of the PRM operations. The absent descriptor changes no port; the others
change only the registers their rule names, on their own port; `LOCK` and the LCD unit never change. -/
def Obligations.PrmFrame : Prop :=
  ∀ (i : Instr) (s t : State), exec i s = .next t →
    (i = .gpioConfigure none → t.ports = s.ports ∧ t.lpd = s.lpd ∧ t.trace = s.trace ∧ sameWorld s t) ∧
    (∀ p, prmPort i = some p →
      (∀ p', p' ≠ p → port t p' = port s p') ∧ samePortBut (prmWrites i) (port s p) (port t p) ∧
      (port t p).lock = (port s p).lock ∧ t.lpd = s.lpd ∧ t.seq = s.seq ∧ sameWorld s t)

/-! ## LCD Protocol Driver -/

/-- R93: when an LCD operation is refused, in which order, and that it completes once accepted. -/
def Obligations.LcdAcceptance : Prop :=
  ∀ (i : Instr) (s : State), isLcdOperation i = true →
    (s.seq ≠ .idle → exec i s = .refused .busy) ∧
    (s.seq = .idle → s.lpd.initDone = false → exec i s = .refused .lcdNotInitialised) ∧
    (s.seq = .idle → s.lpd.initDone = true →
      (∃ r ∈ Role.all, s.clken.getLsbD (s.lpd.lmap.pin r).port.toNat = false) →
      exec i s = .refused .portClockDisabled) ∧
    (LcdReady s → ∃ t, exec i s = .next t ∧ t.seq = .idle)

/-- R82: when `LCD_INIT` is refused, in which order, and that it completes once accepted, whatever `INIT_DONE` is
(R91). -/
def Obligations.LcdInitAcceptance : Prop :=
  ∀ s : State, s.seq = .idle →
    ((∃ r ∈ Role.all, s.cfg.nports ≤ (s.cfg.linemap.pin r).port.toNat) →
      exec .lcdInit s = .refused .invalidPortHandle) ∧
    ((∀ r ∈ Role.all, (s.cfg.linemap.pin r).port.toNat < s.cfg.nports) →
      (∃ r ∈ Role.all, s.clken.getLsbD (s.cfg.linemap.pin r).port.toNat = false) →
      exec .lcdInit s = .refused .portClockDisabled) ∧
    (LinesReady s s.cfg.linemap → ∃ t, exec .lcdInit s = .next t ∧ t.seq = .idle ∧ t.lpd.initDone = true)

/-- R94. The events hold the four data-line writes in the order of log 21, which R76 lets a model leave open. -/
def Obligations.LcdClearResult : Prop :=
  ∀ s : State, LcdReady s →
    exec .lcdClear s =
      .next { after (commandEvents s.cfg s.lpd.lmap 0x01#8 ++ [.wait 1520]) s with
              lpd := { s.lpd with curRow := 0, curCol := 0 }, resp := ⟨.ok, false⟩ }

/-- R95 (the spec's own completion of "home", log 20). The events hold the four data-line writes in the order of log
21, which R76 lets a model leave open. -/
def Obligations.LcdHomeResult : Prop :=
  ∀ s : State, LcdReady s →
    exec .lcdHome s =
      .next { after (commandEvents s.cfg s.lpd.lmap 0x02#8 ++ [.wait 1520]) s with
              lpd := { s.lpd with curRow := 0, curCol := 0 }, resp := ⟨.ok, false⟩ }

/-- R96, R100, in range: Set-DDRAM-Address of `(col + ROW_BASE[row])` truncated to 7 bits. The events hold the four
data-line writes in the order of log 21, which R76 lets a model leave open. -/
def Obligations.SetCursorInRange : Prop :=
  ∀ (row col : Byte) (s : State), LcdReady s → row.toNat < s.lpd.rows.toNat → col.toNat < s.lpd.cols.toNat →
    exec (.lcdSetCursor row col) s =
      .next { after (commandEvents s.cfg s.lpd.lmap
                (BitVec.ofNat 8 (0x80 + (col.toNat + (s.cfg.rowBase row.toNat).toNat) % 128))) s with
              lpd := { s.lpd with curRow := row, curCol := col }, resp := ⟨.ok, false⟩ }

/-- R6 clause 4, R100: in a settled session of a well-formed configuration no carry of the address is lost. The events
hold the four data-line writes in the order of log 21, which R76 lets a model leave open. -/
def Obligations.SetCursorAddressIsWhole : Prop :=
  ∀ (row col : Byte) (s : State), s.cfg.WellFormed → Settled s → LcdReady s → row.toNat < s.lpd.rows.toNat →
    col.toNat < s.lpd.cols.toNat →
    0x80 + (s.cfg.rowBase row.toNat).toNat + col.toNat < 256 ∧
    ∃ t, exec (.lcdSetCursor row col) s = .next t ∧
      t.trace = s.trace ++
        commandEvents s.cfg s.lpd.lmap (BitVec.ofNat 8 (0x80 + (s.cfg.rowBase row.toNat).toNat + col.toNat))

/-- R96, R103, R108, out of range: nothing is sent and nothing changes but the response. -/
def Obligations.SetCursorOutOfRange : Prop :=
  ∀ (row col : Byte) (s : State), LcdReady s → (s.lpd.rows.toNat ≤ row.toNat ∨ s.lpd.cols.toNat ≤ col.toNat) →
    exec (.lcdSetCursor row col) s = .next { s with resp := ⟨.noEffect, false⟩ }

/-- R97: the character is sent as data and the tracked column moves by one, modulo 256, in the direction of `EM_ID`.
The events hold the four data-line writes in the order of log 21, which R76 lets a model leave open. -/
def Obligations.PrintCharResult : Prop :=
  ∀ (c : Byte) (s : State), LcdReady s →
    exec (.lcdPrintChar c) s =
      .next { after (dataEvents s.cfg s.lpd.lmap c) s with
              lpd := { s.lpd with
                curCol := BitVec.ofNat 8 (if s.lpd.emId then s.lpd.curCol.toNat + 1 else s.lpd.curCol.toNat + 255) },
              resp := ⟨.ok, false⟩ }

/-- R98: every character is sent, in order, and the tracked column moves by as many. The events hold the four data-line
writes in the order of log 21, which R76 lets a model leave open. -/
def Obligations.PrintStringResult : Prop :=
  ∀ (str : List Byte) (s : State), LcdReady s →
    exec (.lcdPrintString str) s =
      .next { after (str.flatMap (dataEvents s.cfg s.lpd.lmap)) s with
              lpd := { s.lpd with
                curCol := BitVec.ofNat 8
                  (if s.lpd.emId then s.lpd.curCol.toNat + str.length else s.lpd.curCol.toNat + 255 * str.length) },
              resp := ⟨.ok, false⟩ }

/-- R98, R66: a string behaves as its characters printed one by one, at every split of it. -/
def Obligations.PrintStringIsItsCharacters : Prop :=
  ∀ (as bs : List Byte) (c : Byte) (s : State), LcdReady s →
    ∃ t u, exec (.lcdPrintString as) s = .next t ∧ exec (.lcdPrintChar c) t = .next u ∧
      exec (.lcdPrintString (as ++ [c])) s = .next u ∧
      ∃ v, exec (.lcdPrintString bs) u = .next v ∧ exec (.lcdPrintString (as ++ c :: bs)) s = .next v

/-- R82 to R89: what one `LCD_INIT` does, event by event, and the registers it leaves. The events hold the four
data-line writes in the order of log 21, which R76 lets a model leave open. -/
def Obligations.LcdInitResult : Prop :=
  ∀ s : State, InitReady s →
    exec .lcdInit s =
      .next { after (initPreamble s.cfg s.ports ++ initProtocol s.cfg) s with
              lpd := ⟨s.cfg.linemap, s.cfg.lcdRows, s.cfg.lcdCols, 0, 0, true, false, true, true⟩,
              resp := ⟨.ok, false⟩ }

/-- R92: what one `LCD_INIT` appends, for every configuration. Where the register-select line shares its pin with
another role, which R6 clause 5 excludes, its level at a nibble is that pin's (R81, R123) and only the transfer view's
levels are not stated. -/
def Obligations.LcdInitAppends : Prop :=
  ∀ s t : State, exec .lcdInit s = .next t →
    ∃ es, t.trace = s.trace ++ es ∧
      (es.filter isWr).length = 139 ∧ (es.filter isWait).length = 28 ∧ es.length = 167 ∧
      waitTime es = 45720 + 12 * (s.cfg.tEH + s.cfg.tEL) ∧
      ((∀ r ∈ Role.all, r ≠ .rs → s.cfg.linemap.pin r ≠ s.cfg.linemap.pin .rs) →
        transferView (stepsOf .lcdInit s) s =
          [ .wait 40000, .nib false 0x3, .wait 4100, .nib false 0x3, .wait 100, .nib false 0x3, .nib false 0x2,
            .nib false 0x2, .nib false 0x8, .nib false 0x0, .nib false 0xC, .nib false 0x0, .nib false 0x6,
            .nib false 0x0, .nib false 0x1, .wait 1520 ])

/-- R84: `LCD_INIT` leaves the seven pins outputs, push-pull, at the configured speed, without pull, and every field of
every other pin, `LOCK`, `AFL` and `AFH` as they were. -/
def Obligations.LcdInitPins : Prop :=
  ∀ s t : State, exec .lcdInit s = .next t →
    (∀ r ∈ Role.all,
      let q := port t (s.cfg.linemap.pin r).port
      let n := (s.cfg.linemap.pin r).pin.toNat
      fieldGet (2 * n) 2 q.mode = 0b01#32 ∧ fieldGet n 1 q.otype = 0#32 ∧
      fieldGet (2 * n) 2 q.speed = s.cfg.pinSpeed.zeroExtend 32 ∧ fieldGet (2 * n) 2 q.pull = 0b00#32) ∧
    (∀ (p : PortIx) (n : PinIx), ¬ ownedByLcd s.cfg.linemap p n →
      fieldGet (2 * n.toNat) 2 (port t p).mode = fieldGet (2 * n.toNat) 2 (port s p).mode ∧
      fieldGet n.toNat 1 (port t p).otype = fieldGet n.toNat 1 (port s p).otype ∧
      fieldGet (2 * n.toNat) 2 (port t p).speed = fieldGet (2 * n.toNat) 2 (port s p).speed ∧
      fieldGet (2 * n.toNat) 2 (port t p).pull = fieldGet (2 * n.toNat) 2 (port s p).pull ∧
      (port t p).odata.getLsbD n.toNat = (port s p).odata.getLsbD n.toNat) ∧
    (∀ p, (port t p).lock = (port s p).lock ∧ (port t p).afl = (port s p).afl ∧ (port t p).afh = (port s p).afh ∧
      (port t p).otype.extractLsb' 16 16 = (port s p).otype.extractLsb' 16 16 ∧
      (port t p).odata.extractLsb' 16 16 = (port s p).odata.extractLsb' 16 16)

/-- R89, R80, with distinct lines (R6 clause 5): after `LCD_INIT` the bus is as R80 says, register-select is Low and the
data lines show the last nibble, `0b0001`. That nibble is recognised in the trace with its data-line writes in the order
of log 21, which R76 lets a model leave open. -/
def Obligations.LcdInitLines : Prop :=
  ∀ s t : State, s.cfg.linemap.Distinct → exec .lcdInit s = .next t →
    BusQuiet t ∧ sample t.ports t.lpd.lmap = ⟨false, false, 0b0001#4⟩

/-- R90: the table, step by step, is a straight line from acceptance to `IDLE`, and it is what `LCD_INIT` runs; a
nibble nests the steps `D0`, `D1`, `D2`, `D3`, `E_HIGH`, `E_HIGH_WAIT`, `E_LOW`, `E_LOW_WAIT` under its step. -/
def Obligations.InitTableIsStraightLine : Prop :=
  let line : List InitStep :=
    [ .latch, .preset, .pincfg, .pwrWait, .fs8x1, .wait4100, .fs8x2, .wait100, .fs8x3, .fs4, .funcSet, .dispCtrl,
      .entryMode, .clear, .clearWait, .finish ]
  (∀ pair ∈ line.zip (line.drop 1), initNext pair.1 = some pair.2) ∧
  initNext .finish = none ∧ (∀ st, st ∈ line) ∧ line.Nodup ∧
  line.map initActions =
    [ [.latch], Role.all.map fun r => .drive r false, Role.all.map .setupPin, [.wait 40000], [.nibble 0b0011],
      [.wait 4100], [.nibble 0b0011], [.wait 100], [.nibble 0b0011], [.nibble 0b0010, .selectFourBit], [.command 0x28],
      [.command 0x0C], [.command 0x06, .entryMode true false], [.command 0x01], [.wait 1520],
      [.cursor 0 0, .initDone, .respond .ok false] ] ∧
  (∀ s, stepsOf .lcdInit s = line.flatMap initActions) ∧
  ∀ s n, smallSteps s (.nibble n) =
    [ .drive .d0 (n.getLsbD 0), .drive .d1 (n.getLsbD 1), .drive .d2 (n.getLsbD 2), .drive .d3 (n.getLsbD 3),
      .drive .e true, .wait s.cfg.tEH, .drive .e false, .wait s.cfg.tEL ]

/-- R78, R59, R67: each of the eight LCD instruction bytes is put on the bus as one command transaction, the `x` bits of
Return-Home, Cursor/Display-Shift and Function-Set sent as 0, and nothing else changes; on lines whose ports have no clock
it is refused (R47). That this is the byte's meaning is the model's reading (log 10), and `IF4` is not looked at (log 26).
The events hold the four data-line writes in the order of log 21, which R76 lets a model leave open. -/
def Obligations.CommandByteTransmitted : Prop :=
  ∀ (i : Instr) (b : Byte) (s : State), encode i = .command b →
    let sent : Byte :=
      if b &&& 0xFE#8 = 0x02#8 then 0x02#8
      else if b &&& 0xF0#8 = 0x10#8 ∨ b &&& 0xE0#8 = 0x20#8 then b &&& 0xFC#8
      else b
    (LinesReady s s.lpd.lmap → exec i s = .next (after (commandEvents s.cfg s.lpd.lmap sent) s)) ∧
    (¬ LinesReady s s.lpd.lmap → exec i s = .refused .portClockDisabled)

/-- R25, R75 to R79: the frame of the LCD operations and of the command bytes. In the ports only `ODATA` bits of the
seven lines can change; in the LCD unit only the tracked cursor; a command byte leaves all of the LCD unit, `SEQ` and
`RESP`: that its meaning is no more than its transaction is the model's reading (log 10). -/
def Obligations.LcdFrame : Prop :=
  ∀ (i : Instr) (s t : State), (isLcdOperation i = true ∨ isCommandByte i = true) → exec i s = .next t →
    sameWorld s t ∧ t.seq = s.seq ∧ t.pads = s.pads ∧ t.freeIx = s.freeIx ∧
    t.lpd = { s.lpd with curRow := t.lpd.curRow, curCol := t.lpd.curCol } ∧
    (isCommandByte i = true → t.lpd = s.lpd ∧ t.resp = s.resp) ∧
    (∀ p, samePortBut [.odata] (port s p) (port t p)) ∧
    (∀ (p : PortIx) (n : PinIx), ¬ ownedByLcd s.lpd.lmap p n →
      (port t p).odata.getLsbD n.toNat = (port s p).odata.getLsbD n.toNat) ∧
    (∀ p, (port t p).odata.extractLsb' 16 16 = (port s p).odata.extractLsb' 16 16)

/-- R99: no operation sends Cursor/Display-Shift or Set-CGRAM-Address, after `LCD_INIT` none sends Entry-Mode-Set,
Display-Control or Function-Set, and no LCD operation reads. R59, R67: in the bytes an operation sends, the `x` bits of
Return-Home and of Function-Set are 0. -/
def Obligations.NeverSent : Prop :=
  ∀ (i : Instr) (s : State),
    (∀ b, Action.command b ∈ stepsOf i s →
      (∀ x, decodeByte b = .ok (.returnHome x) → x = 0) ∧
      (∀ dl n f x, decodeByte b = .ok (.functionSet dl n f x) → x = 0) ∧
      (∀ sc rl x, decodeByte b ≠ .ok (.cursorDisplayShift sc rl x)) ∧ (∀ a, decodeByte b ≠ .ok (.setCgramAddress a)) ∧
      (i ≠ .lcdInit →
        (∀ id sh, decodeByte b ≠ .ok (.entryModeSet id sh)) ∧ (∀ d c k, decodeByte b ≠ .ok (.displayControl d c k)) ∧
        (∀ dl n f x, decodeByte b ≠ .ok (.functionSet dl n f x)))) ∧
    (∀ t es p v, isLcdOperation i = true ∨ i = .lcdInit → exec i s = .next t → t.trace = s.trace ++ es →
      Event.rdi p v ∉ es)

/-! ## The whole machine -/

/-- R126, R25, R32: every step from a settled state ends in a settled state, whatever is presented. -/
def Obligations.StepKeepsSettled : Prop :=
  ∀ s t : State, Settled s → step s = .next t → Settled t

/-- R32: the state after reset is settled. -/
def Obligations.ResetIsSettled : Prop := Settled State.reset

/-- R80 with the premises it names (R6 clause 5, R121), at the idle block: every operation keeps the bus as R80 says,
and `LCD_INIT` makes it so: enable and read/write Low, the pins outputs, register-select and the data lines at the last
transaction's level and nibble, enable Low since that nibble's `WAIT(T_EL)`. A nibble is recognised in the trace with
its data-line writes in the order of log 21. -/
def Obligations.OperationsKeepBusQuiet : Prop :=
  ∀ (i : Instr) (s t : State), isOperation i = true → SessionLatched s → s.cfg.linemap.Distinct → BusQuiet s →
    keepsOffLcdPins s.lpd.lmap i → exec i s = .next t → BusQuiet t

/-- R80 inside an operation, at every point outside `SendNibble`: in an LCD operation all of it; in `LCD_INIT` after
its fifteenth step, the end of P2, what does not speak of a nibble, and all of it once a nibble has been sent (its
order of data-line writes: log 21). -/
def Obligations.BusHoldsInsideOperations : Prop :=
  ∀ (i : Instr) (s t : State) (done left : List Action), (stepsOf i s).flatMap transferSteps = done ++ left →
    runActions done (accepted i (stepsOf i s) s) = .ok t →
    (isLcdOperation i = true → s.lpd.initDone = true → s.lpd.lmap.Distinct → BusQuiet s → BusHolds t) ∧
    (i = .lcdInit → s.cfg.linemap.Distinct → 15 ≤ done.length →
      LinesLow t ∧ RegisterSelectShown t ∧ ((∃ n, Action.nibble n ∈ done) → NibbleShown t))

/-- R81, law: what the controller latches while an LCD operation runs is its transfer view, item for item, with
read/write Low. -/
def Obligations.LatchedNibblesAreTransferView : Prop :=
  ∀ (i : Instr) (s t : State) (es : List Event), isLcdOperation i = true → s.lpd.lmap.Distinct →
    lineLevel s.ports s.lpd.lmap .e = false → lineLevel s.ports s.lpd.lmap .rw = false →
    exec i s = .next t → t.trace = s.trace ++ es →
    latches s.lpd.lmap s.ports es = latchesOf (transferView (stepsOf i s) s)

/-- R81, law, for `LCD_INIT` from its power-on wait on (the 64th event): the twelve nibbles of R92, from any ports. -/
def Obligations.LatchedNibblesOfInit : Prop :=
  ∀ (s t : State) (es : List Event), s.cfg.linemap.Distinct → exec .lcdInit s = .next t → t.trace = s.trace ++ es →
    es[63]? = some (.wait 40000) ∧
    latches s.cfg.linemap (replayAll s.ports (es.take 63)) (es.drop 63) =
      [ ⟨false, false, 0x3⟩, ⟨false, false, 0x3⟩, ⟨false, false, 0x3⟩, ⟨false, false, 0x2⟩, ⟨false, false, 0x2⟩,
        ⟨false, false, 0x8⟩, ⟨false, false, 0x0⟩, ⟨false, false, 0xC⟩, ⟨false, false, 0x0⟩, ⟨false, false, 0x6⟩,
        ⟨false, false, 0x0⟩, ⟨false, false, 0x1⟩ ]

/-- R81, law whole: an `LCD_INIT`, then operations that stay off the LCD pins. From the power-on wait on (the 64th
event) the latched nibbles are the transfer view's, item for item, with read/write Low, and from one falling edge to
the next the `WAIT` events give `T_EL`, the waits between, and `T_EH`. -/
def Obligations.LatchedNibblesOfSession : Prop :=
  ∀ (s t u : State) (ops : List Instr) (es : List Event), s.cfg.linemap.Distinct → exec .lcdInit s = .next t →
    (∀ i ∈ ops, isOperation i = true ∧ i ≠ .lcdInit ∧ keepsOffLcdPins s.cfg.linemap i) →
    runAll ops t = .next u → u.trace = s.trace ++ es →
    timedLatches s.cfg.linemap 0 (replayAll s.ports (es.take 63)) (es.drop 63) =
      timedItems s.cfg 0 (transferView (stepsOf .lcdInit s) s ++ sessionView ops t)

/-- R27: the sequencer's small steps and the big step give the same state, for every operation, for every command byte
(R78; a byte in `SEQ` is sent as it stands there, log 27), and for every LCD instruction byte as a step of an operation,
its `x` bits 0 (R59); and a small step is at most one register write or one wait. That a small step is no finer than
that, and the form of `SEQ`, are the model's (log 9), and so is that the meaning of an LCD instruction byte is its command
transaction, which the third clause rests on (log 10). -/
def Obligations.SmallStepsGiveBigStep : Prop :=
  (∀ (i : Instr) (s t : State), isOperation i = true → NoReset s → exec i s = .next t →
    Host.Core.run core ((stepsOf i s).flatMap (smallSteps s)).length { s with seq := .busy i (stepsOf i s) } = .next t) ∧
  (∀ (op : Instr) (b : Byte) (rest : List Action) (s : State), b ≠ 0 → NoReset s →
    s.seq = .busy op (.command b :: rest) →
    Host.Core.run core 17 s = .next (sendCommand b { s with seq := .busy op rest })) ∧
  (∀ (i op : Instr) (rest : List Action) (s : State), isCommandByte i = true → NoReset s →
    s.seq = .busy op (.command (busByte i) :: rest) → LinesReady s s.lpd.lmap →
    Host.Core.run core 17 s = exec i { s with seq := .busy op rest }) ∧
  (∀ (op : Instr) (a : Action) (rest : List Action) (s t : State), NoReset s → s.seq = .busy op (a :: rest) →
    (∀ b, a ≠ .instructionByte b) → step s = .next t →
    ∃ es, t.trace = s.trace ++ es ∧ (es.filter isWr).length + (es.filter isWait).length ≤ 1)

/-- R5, R10, R127: no step changes the configuration. R28: a step only appends to the trace, but for a platform reset,
which empties it (R116). -/
def Obligations.ConfigConstantTraceGrows : Prop :=
  ∀ s t : State, step s = .next t →
    t.cfg = s.cfg ∧
    ((∀ rest, s.inbox ≠ .world .reset :: rest) → ∃ es, t.trace = s.trace ++ es)

/-- R19, R41: no instruction writes `LOCK` or `IDATA`, and every `LOCK` keeps its value. -/
def Obligations.LockAndIdataNeverWritten : Prop :=
  ∀ (i : Instr) (s t : State) (es : List Event), exec i s = .next t → t.trace = s.trace ++ es →
    (∀ p v, Event.wr p .lock v ∉ es ∧ Event.wr p .idata v ∉ es) ∧ ∀ p, (port t p).lock = (port s p).lock

/-- R47: whatever an instruction does to a port, the port exists and its clock is on. -/
def Obligations.AccessesHaveTheirClock : Prop :=
  ∀ (i : Instr) (s t : State) (es : List Event), exec i s = .next t → t.trace = s.trace ++ es →
    ∀ p, ((∃ r v, Event.wr p r v ∈ es) ∨ ∃ v, Event.rdi p v ∈ es) →
      p.toNat < s.cfg.nports ∧ s.clken.getLsbD p.toNat = true

/-- R101, R115: no instruction faults, and a refusal is one of the spec's first six reasons. -/
def Obligations.NoFaultAndNamedRefusals : Prop :=
  ∀ (i : Instr) (s : State),
    (∀ f, exec i s ≠ .fault f) ∧
    (∀ r, exec i s = .refused r →
      r ∈ [.busy, .reservedRequest, .invalidPortHandle, .reservedPullCode, .portClockDisabled, .lcdNotInitialised])

/-- R58, R126: an operation that completes leaves the block idle with the response of R58, as two bits. -/
def Obligations.ResponseOfCompletedOperation : Prop :=
  ∀ (i : Instr) (s t : State), isOperation i = true → exec i s = .next t →
    t.seq = .idle ∧
    (∀ p n, i = .gpioRead p n →
      ∃ v, t.trace = s.trace ++ [.rdi p v] ∧ respBits t.resp = 0#1 ++ BitVec.ofBool (v.getLsbD n.toNat)) ∧
    (∀ row col, i = .lcdSetCursor row col → (s.lpd.rows.toNat ≤ row.toNat ∨ s.lpd.cols.toNat ≤ col.toNat) →
      respBits t.resp = 0b10#2) ∧
    ((∀ p n, i ≠ .gpioRead p n) →
      (∀ row col, i = .lcdSetCursor row col → row.toNat < s.lpd.rows.toNat ∧ col.toNat < s.lpd.cols.toNat) →
      respBits t.resp = 0b00#2)

/-- R125: the least time of every operation, from the `WAIT` events it appends. -/
def Obligations.Durations : Prop :=
  ∀ (i : Instr) (s t : State), isOperation i = true → exec i s = .next t →
    ∃ es, t.trace = s.trace ++ es ∧
      waitTime es =
        match i with
        | .lcdInit => 45720 + 12 * (s.cfg.tEH + s.cfg.tEL)
        | .lcdClear => 1520 + 2 * (s.cfg.tEH + s.cfg.tEL)
        | .lcdHome => 1520 + 2 * (s.cfg.tEH + s.cfg.tEL)
        | .lcdSetCursor row col =>
          if row.toNat < s.lpd.rows.toNat ∧ col.toNat < s.lpd.cols.toNat then 2 * (s.cfg.tEH + s.cfg.tEL) else 0
        | .lcdPrintChar _ => 2 * (s.cfg.tEH + s.cfg.tEL)
        | .lcdPrintString str => 2 * str.length * (s.cfg.tEH + s.cfg.tEL)
        | _ => 0

/-- R32, R116: what reset leaves where the spec gives a value, at power-on and at a platform reset within a run, at
whatever point the sequencer is, and that an idle block to which nothing is presented does nothing. The reset comes as
the next event of the inbox (log 7, log 17). -/
def Obligations.ResetLeaves : Prop :=
  State.reset.lpd.initDone = false ∧ State.reset.lpd.if4 = false ∧ State.reset.seq = .idle ∧ State.reset.trace = [] ∧
  step State.reset = .next State.reset ∧
  ∀ (s : State) (rest : List HostEvent), s.inbox = .world .reset :: rest →
    ∃ t, step s = .next t ∧ t.lpd.initDone = false ∧ t.lpd.if4 = false ∧ t.seq = .idle ∧ t.trace = [] ∧
      t.cfg = s.cfg ∧ t.inbox = rest ∧ t.clken = s.clken ∧ t.pads = s.pads ∧ t.stream = s.stream

/-- R22, R127: the clock-enable collaborator, and another agent's write between operations (a possibility the model
adds, log 18): its register takes the value as in R41, everything else is as it was. -/
def Obligations.WorldBetweenOperations : Prop :=
  ∀ (s : State) (rest : List HostEvent), s.seq = .idle →
    (∀ v, s.inbox = .world (.clken v) :: rest → step s = .next { s with inbox := rest, clken := v }) ∧
    (∀ p r v, s.inbox = .world (.portWrite p r v) :: rest →
      (p.toNat < s.cfg.nports → s.clken.getLsbD p.toNat = true →
        ∃ t, step s = .next t ∧ t = { s with inbox := rest, ports := t.ports } ∧
          (∀ p', p' ≠ p → port t p' = port s p') ∧ port t p = port (regWrite p r v s) p) ∧
      (s.cfg.nports ≤ p.toNat → step s = .refused .invalidPortHandle) ∧
      (p.toNat < s.cfg.nports → s.clken.getLsbD p.toNat = false → step s = .refused .portClockDisabled))
end

