-- ==== Sys2Proof/Laws/State.lean ====
section
/-! SUPPORT. For every update of the state, what it leaves in every field. -/

namespace Sys2Proof.Machine

/-! ### `setPort` -/

@[simp] theorem setPort_cfg (p : PortIx) (q : Port) (s : State) : (setPort p q s).cfg = s.cfg := rfl
@[simp] theorem setPort_ports (p : PortIx) (q : Port) (s : State) : (setPort p q s).ports = putPort s.ports p q := rfl
@[simp] theorem setPort_lpd (p : PortIx) (q : Port) (s : State) : (setPort p q s).lpd = s.lpd := rfl
@[simp] theorem setPort_seq (p : PortIx) (q : Port) (s : State) : (setPort p q s).seq = s.seq := rfl
@[simp] theorem setPort_resp (p : PortIx) (q : Port) (s : State) : (setPort p q s).resp = s.resp := rfl
@[simp] theorem setPort_trace (p : PortIx) (q : Port) (s : State) : (setPort p q s).trace = s.trace := rfl
@[simp] theorem setPort_clken (p : PortIx) (q : Port) (s : State) : (setPort p q s).clken = s.clken := rfl
@[simp] theorem setPort_pads (p : PortIx) (q : Port) (s : State) : (setPort p q s).pads = s.pads := rfl
@[simp] theorem setPort_inbox (p : PortIx) (q : Port) (s : State) : (setPort p q s).inbox = s.inbox := rfl
@[simp] theorem setPort_stream (p : PortIx) (q : Port) (s : State) : (setPort p q s).stream = s.stream := rfl
@[simp] theorem setPort_freeIx (p : PortIx) (q : Port) (s : State) : (setPort p q s).freeIx = s.freeIx := rfl

/-! ### `emit` -/

@[simp] theorem emit_cfg (e : Event) (s : State) : (emit e s).cfg = s.cfg := rfl
@[simp] theorem emit_ports (e : Event) (s : State) : (emit e s).ports = s.ports := rfl
@[simp] theorem emit_lpd (e : Event) (s : State) : (emit e s).lpd = s.lpd := rfl
@[simp] theorem emit_seq (e : Event) (s : State) : (emit e s).seq = s.seq := rfl
@[simp] theorem emit_resp (e : Event) (s : State) : (emit e s).resp = s.resp := rfl
@[simp] theorem emit_trace (e : Event) (s : State) : (emit e s).trace = s.trace ++ [e] := rfl
@[simp] theorem emit_clken (e : Event) (s : State) : (emit e s).clken = s.clken := rfl
@[simp] theorem emit_pads (e : Event) (s : State) : (emit e s).pads = s.pads := rfl
@[simp] theorem emit_inbox (e : Event) (s : State) : (emit e s).inbox = s.inbox := rfl
@[simp] theorem emit_stream (e : Event) (s : State) : (emit e s).stream = s.stream := rfl
@[simp] theorem emit_freeIx (e : Event) (s : State) : (emit e s).freeIx = s.freeIx := rfl

/-! ### `latchConfig` -/

@[simp] theorem latchConfig_cfg (s : State) : (latchConfig s).cfg = s.cfg := rfl
@[simp] theorem latchConfig_ports (s : State) : (latchConfig s).ports = s.ports := rfl
@[simp] theorem latchConfig_lpd (s : State) : (latchConfig s).lpd = { s.lpd with initDone := false, if4 := false, lmap := s.cfg.linemap, rows := s.cfg.lcdRows, cols := s.cfg.lcdCols } := rfl
@[simp] theorem latchConfig_seq (s : State) : (latchConfig s).seq = s.seq := rfl
@[simp] theorem latchConfig_resp (s : State) : (latchConfig s).resp = s.resp := rfl
@[simp] theorem latchConfig_trace (s : State) : (latchConfig s).trace = s.trace := rfl
@[simp] theorem latchConfig_clken (s : State) : (latchConfig s).clken = s.clken := rfl
@[simp] theorem latchConfig_pads (s : State) : (latchConfig s).pads = s.pads := rfl
@[simp] theorem latchConfig_inbox (s : State) : (latchConfig s).inbox = s.inbox := rfl
@[simp] theorem latchConfig_stream (s : State) : (latchConfig s).stream = s.stream := rfl
@[simp] theorem latchConfig_freeIx (s : State) : (latchConfig s).freeIx = s.freeIx := rfl

/-! ### `setIf4` -/

@[simp] theorem setIf4_cfg (s : State) : (setIf4 s).cfg = s.cfg := rfl
@[simp] theorem setIf4_ports (s : State) : (setIf4 s).ports = s.ports := rfl
@[simp] theorem setIf4_lpd (s : State) : (setIf4 s).lpd = { s.lpd with if4 := true } := rfl
@[simp] theorem setIf4_seq (s : State) : (setIf4 s).seq = s.seq := rfl
@[simp] theorem setIf4_resp (s : State) : (setIf4 s).resp = s.resp := rfl
@[simp] theorem setIf4_trace (s : State) : (setIf4 s).trace = s.trace := rfl
@[simp] theorem setIf4_clken (s : State) : (setIf4 s).clken = s.clken := rfl
@[simp] theorem setIf4_pads (s : State) : (setIf4 s).pads = s.pads := rfl
@[simp] theorem setIf4_inbox (s : State) : (setIf4 s).inbox = s.inbox := rfl
@[simp] theorem setIf4_stream (s : State) : (setIf4 s).stream = s.stream := rfl
@[simp] theorem setIf4_freeIx (s : State) : (setIf4 s).freeIx = s.freeIx := rfl

/-! ### `setEntryMode` -/

@[simp] theorem setEntryMode_cfg (id sh : Bool) (s : State) : (setEntryMode id sh s).cfg = s.cfg := rfl
@[simp] theorem setEntryMode_ports (id sh : Bool) (s : State) : (setEntryMode id sh s).ports = s.ports := rfl
@[simp] theorem setEntryMode_lpd (id sh : Bool) (s : State) : (setEntryMode id sh s).lpd = { s.lpd with emId := id, emS := sh } := rfl
@[simp] theorem setEntryMode_seq (id sh : Bool) (s : State) : (setEntryMode id sh s).seq = s.seq := rfl
@[simp] theorem setEntryMode_resp (id sh : Bool) (s : State) : (setEntryMode id sh s).resp = s.resp := rfl
@[simp] theorem setEntryMode_trace (id sh : Bool) (s : State) : (setEntryMode id sh s).trace = s.trace := rfl
@[simp] theorem setEntryMode_clken (id sh : Bool) (s : State) : (setEntryMode id sh s).clken = s.clken := rfl
@[simp] theorem setEntryMode_pads (id sh : Bool) (s : State) : (setEntryMode id sh s).pads = s.pads := rfl
@[simp] theorem setEntryMode_inbox (id sh : Bool) (s : State) : (setEntryMode id sh s).inbox = s.inbox := rfl
@[simp] theorem setEntryMode_stream (id sh : Bool) (s : State) : (setEntryMode id sh s).stream = s.stream := rfl
@[simp] theorem setEntryMode_freeIx (id sh : Bool) (s : State) : (setEntryMode id sh s).freeIx = s.freeIx := rfl

/-! ### `setCursor` -/

@[simp] theorem setCursor_cfg (row col : Byte) (s : State) : (setCursor row col s).cfg = s.cfg := rfl
@[simp] theorem setCursor_ports (row col : Byte) (s : State) : (setCursor row col s).ports = s.ports := rfl
@[simp] theorem setCursor_lpd (row col : Byte) (s : State) : (setCursor row col s).lpd = { s.lpd with curRow := row, curCol := col } := rfl
@[simp] theorem setCursor_seq (row col : Byte) (s : State) : (setCursor row col s).seq = s.seq := rfl
@[simp] theorem setCursor_resp (row col : Byte) (s : State) : (setCursor row col s).resp = s.resp := rfl
@[simp] theorem setCursor_trace (row col : Byte) (s : State) : (setCursor row col s).trace = s.trace := rfl
@[simp] theorem setCursor_clken (row col : Byte) (s : State) : (setCursor row col s).clken = s.clken := rfl
@[simp] theorem setCursor_pads (row col : Byte) (s : State) : (setCursor row col s).pads = s.pads := rfl
@[simp] theorem setCursor_inbox (row col : Byte) (s : State) : (setCursor row col s).inbox = s.inbox := rfl
@[simp] theorem setCursor_stream (row col : Byte) (s : State) : (setCursor row col s).stream = s.stream := rfl
@[simp] theorem setCursor_freeIx (row col : Byte) (s : State) : (setCursor row col s).freeIx = s.freeIx := rfl

/-! ### `advanceCursor` -/

@[simp] theorem advanceCursor_cfg (s : State) : (advanceCursor s).cfg = s.cfg := rfl
@[simp] theorem advanceCursor_ports (s : State) : (advanceCursor s).ports = s.ports := rfl
@[simp] theorem advanceCursor_lpd (s : State) : (advanceCursor s).lpd = { s.lpd with curCol := advancedCol s.lpd } := rfl
@[simp] theorem advanceCursor_seq (s : State) : (advanceCursor s).seq = s.seq := rfl
@[simp] theorem advanceCursor_resp (s : State) : (advanceCursor s).resp = s.resp := rfl
@[simp] theorem advanceCursor_trace (s : State) : (advanceCursor s).trace = s.trace := rfl
@[simp] theorem advanceCursor_clken (s : State) : (advanceCursor s).clken = s.clken := rfl
@[simp] theorem advanceCursor_pads (s : State) : (advanceCursor s).pads = s.pads := rfl
@[simp] theorem advanceCursor_inbox (s : State) : (advanceCursor s).inbox = s.inbox := rfl
@[simp] theorem advanceCursor_stream (s : State) : (advanceCursor s).stream = s.stream := rfl
@[simp] theorem advanceCursor_freeIx (s : State) : (advanceCursor s).freeIx = s.freeIx := rfl

/-! ### `setInitDone` -/

@[simp] theorem setInitDone_cfg (s : State) : (setInitDone s).cfg = s.cfg := rfl
@[simp] theorem setInitDone_ports (s : State) : (setInitDone s).ports = s.ports := rfl
@[simp] theorem setInitDone_lpd (s : State) : (setInitDone s).lpd = { s.lpd with initDone := true } := rfl
@[simp] theorem setInitDone_seq (s : State) : (setInitDone s).seq = s.seq := rfl
@[simp] theorem setInitDone_resp (s : State) : (setInitDone s).resp = s.resp := rfl
@[simp] theorem setInitDone_trace (s : State) : (setInitDone s).trace = s.trace := rfl
@[simp] theorem setInitDone_clken (s : State) : (setInitDone s).clken = s.clken := rfl
@[simp] theorem setInitDone_pads (s : State) : (setInitDone s).pads = s.pads := rfl
@[simp] theorem setInitDone_inbox (s : State) : (setInitDone s).inbox = s.inbox := rfl
@[simp] theorem setInitDone_stream (s : State) : (setInitDone s).stream = s.stream := rfl
@[simp] theorem setInitDone_freeIx (s : State) : (setInitDone s).freeIx = s.freeIx := rfl

/-! ### `respond` -/

@[simp] theorem respond_cfg (st : Status) (l : Level) (s : State) : (respond st l s).cfg = s.cfg := rfl
@[simp] theorem respond_ports (st : Status) (l : Level) (s : State) : (respond st l s).ports = s.ports := rfl
@[simp] theorem respond_lpd (st : Status) (l : Level) (s : State) : (respond st l s).lpd = s.lpd := rfl
@[simp] theorem respond_seq (st : Status) (l : Level) (s : State) : (respond st l s).seq = .idle := rfl
@[simp] theorem respond_resp (st : Status) (l : Level) (s : State) : (respond st l s).resp = ⟨st, l⟩ := rfl
@[simp] theorem respond_trace (st : Status) (l : Level) (s : State) : (respond st l s).trace = s.trace := rfl
@[simp] theorem respond_clken (st : Status) (l : Level) (s : State) : (respond st l s).clken = s.clken := rfl
@[simp] theorem respond_pads (st : Status) (l : Level) (s : State) : (respond st l s).pads = s.pads := rfl
@[simp] theorem respond_inbox (st : Status) (l : Level) (s : State) : (respond st l s).inbox = s.inbox := rfl
@[simp] theorem respond_stream (st : Status) (l : Level) (s : State) : (respond st l s).stream = s.stream := rfl
@[simp] theorem respond_freeIx (st : Status) (l : Level) (s : State) : (respond st l s).freeIx = s.freeIx := rfl

/-! ### `accepted` -/

@[simp] theorem accepted_cfg (op : Instr) (steps : List Action) (s : State) : (accepted op steps s).cfg = s.cfg := rfl
@[simp] theorem accepted_ports (op : Instr) (steps : List Action) (s : State) : (accepted op steps s).ports = s.ports := rfl
@[simp] theorem accepted_lpd (op : Instr) (steps : List Action) (s : State) : (accepted op steps s).lpd = s.lpd := rfl
@[simp] theorem accepted_seq (op : Instr) (steps : List Action) (s : State) : (accepted op steps s).seq = .busy op steps := rfl
@[simp] theorem accepted_resp (op : Instr) (steps : List Action) (s : State) : (accepted op steps s).resp = s.resp := rfl
@[simp] theorem accepted_trace (op : Instr) (steps : List Action) (s : State) : (accepted op steps s).trace = s.trace := rfl
@[simp] theorem accepted_clken (op : Instr) (steps : List Action) (s : State) : (accepted op steps s).clken = s.clken := rfl
@[simp] theorem accepted_pads (op : Instr) (steps : List Action) (s : State) : (accepted op steps s).pads = s.pads := rfl
@[simp] theorem accepted_inbox (op : Instr) (steps : List Action) (s : State) : (accepted op steps s).inbox = s.inbox := rfl
@[simp] theorem accepted_stream (op : Instr) (steps : List Action) (s : State) : (accepted op steps s).stream = s.stream := rfl
@[simp] theorem accepted_freeIx (op : Instr) (steps : List Action) (s : State) : (accepted op steps s).freeIx = s.freeIx := rfl

end Sys2Proof.Machine
end

