-- ==== Sys2Proof/Laws/Ops.lean ====
section
/-! SUPPORT. For each shared operation, what it can do: ports, register access, the bus micro-operations as events and
replay, one step of the sequencer, acceptance. -/

namespace Sys2Proof.Machine

/-! ## Ports -/

@[simp] theorem portAt_putPort_same (ps : Vector Port 16) (p : PortIx) (q : Port) : portAt (putPort ps p q) p = q := by
  simp [portAt, putPort]

theorem portAt_putPort_ne {p p' : PortIx} (h : p' ≠ p) (ps : Vector Port 16) (q : Port) :
    portAt (putPort ps p q) p' = portAt ps p' := by
  have hne : p.toNat ≠ p'.toNat := fun e => h (BitVec.eq_of_toNat_eq e.symm)
  simp [portAt, putPort, Vector.getElem_set_ne _ _ hne]

theorem portAt_putPort (ps : Vector Port 16) (p p' : PortIx) (q : Port) :
    portAt (putPort ps p q) p' = if p' = p then q else portAt ps p' := by
  by_cases h : p' = p
  · simp [h]
  · simp [h, portAt_putPort_ne h]

@[simp] theorem port_setPort_same (p : PortIx) (q : Port) (s : State) : port (setPort p q s) p = q :=
  portAt_putPort_same s.ports p q

theorem port_setPort_ne {p p' : PortIx} (h : p' ≠ p) (q : Port) (s : State) : port (setPort p q s) p' = port s p' :=
  portAt_putPort_ne h s.ports q

/-- Ports that agree at every index are equal. -/
theorem ports_ext {ps qs : Vector Port 16} (h : ∀ p, portAt ps p = portAt qs p) : ps = qs := by
  apply Vector.ext
  intro i hi
  have := h (BitVec.ofNat 4 i)
  simpa [portAt, Nat.mod_eq_of_lt hi] using this

@[simp] theorem port_emit (e : Event) (s : State) (p : PortIx) : port (emit e s) p = port s p := rfl

@[simp] theorem replay_wait (ps : Vector Port 16) (d : Nat) : replay ps (.wait d) = ps := rfl

@[simp] theorem replay_rdi (ps : Vector Port 16) (p : PortIx) (v : BitVec 16) : replay ps (.rdi p v) = ps := rfl

theorem portAt_replay_wr (ps : Vector Port 16) (p p' : PortIx) (r : Reg) (v : Word) :
    portAt (replay ps (.wr p r v)) p' = if p' = p then (portAt ps p).write r v else portAt ps p' :=
  portAt_putPort ps p p' _

@[simp] theorem replayAll_nil (ps : Vector Port 16) : replayAll ps [] = ps := rfl

theorem replayAll_append (ps : Vector Port 16) (as bs : List Event) :
    replayAll ps (as ++ bs) = replayAll (replayAll ps as) bs := by
  simp [replayAll]

@[simp] theorem replayAll_cons (ps : Vector Port 16) (e : Event) (es : List Event) :
    replayAll ps (e :: es) = replayAll (replay ps e) es := rfl

/-! ## Register access -/

/-- A register write as its one event and that event's replay. -/
theorem regWrite_eq (p : PortIx) (r : Reg) (v : Word) (s : State) :
    regWrite p r v s = { s with ports := replay s.ports (.wr p r v), trace := s.trace ++ [.wr p r v] } := rfl

theorem port_regWrite_same (p : PortIx) (r : Reg) (v : Word) (s : State) :
    port (regWrite p r v s) p = (port s p).write r v := by
  simp [regWrite]

theorem port_regWrite_ne {p p' : PortIx} (h : p' ≠ p) (r : Reg) (v : Word) (s : State) :
    port (regWrite p r v s) p' = port s p' := by
  simp [regWrite, port_setPort_ne h]

/-- A register that holds storage reads as what it holds, and the read changes nothing (R40). -/
theorem regRead_stored {p : PortIx} {r : Reg} {s : State} {a : Word} (h : (port s p).stored r = some a) :
    regRead p r s = .ok (a, s) := by
  cases r <;> simp_all [regRead, Port.stored]

theorem stored_write_same {q : Port} {r : Reg} {a v : Word} (h : q.stored r = some a) :
    (q.write r v).stored r = some v := by
  cases r <;> simp_all [Port.stored, Port.write]

/-- Writing one storage register leaves the others. -/
theorem stored_write_ne {q : Port} {r r' : Reg} (h : r' ≠ r) (hb : r ≠ .bsr) (v : Word) :
    (q.write r v).stored r' = q.stored r' := by
  cases r <;> cases r' <;> simp_all [Port.stored, Port.write]

/-- A read-modify-write of a register that holds `a`: one write (R42, R72). -/
theorem modifyReg_stored {p : PortIx} {r : Reg} {s : State} {a : Word} (f : Word → Word)
    (h : (port s p).stored r = some a) : modifyReg p r f s = .ok (regWrite p r (f a) s) := by
  simp [modifyReg, regRead_stored h]

/-- A field update of a register that holds `a`: two writes, the field cleared and then set (R42). -/
theorem fieldWrite_stored {p : PortIx} {r : Reg} {s : State} {a : Word} (off w : Nat) (val : Word)
    (h : (port s p).stored r = some a) :
    fieldWrite p r off w val s =
      .ok (regWrite p r (fieldSet off val (fieldClear off w a)) (regWrite p r (fieldClear off w a) s)) := by
  have h2 : (port (regWrite p r (fieldClear off w a) s) p).stored r = some (fieldClear off w a) := by
    rw [port_regWrite_same]; exact stored_write_same h
  simp [fieldWrite, clearField, setField, Except.bind, modifyReg_stored _ h, modifyReg_stored _ h2]

/-- The same as events and replay. -/
theorem fieldWrite_events {p : PortIx} {r : Reg} {s : State} {a : Word} (off w : Nat) (val : Word)
    (h : (port s p).stored r = some a) :
    fieldWrite p r off w val s =
      .ok { s with ports := replayAll s.ports (fieldEvents p r off w val a),
                   trace := s.trace ++ fieldEvents p r off w val a } := by
  rw [fieldWrite_stored off w val h]
  simp [regWrite_eq, fieldEvents, replayAll]

/-! ## Set/reset -/

/-- A write to `BSR`, bit by bit (R18): set wins, then reset, else the bit is kept; the upper half is kept. -/
theorem applyBsr_getLsbD (odata v : Word) (i : Nat) :
    (applyBsr odata v).getLsbD i =
      if i < 16 then v.getLsbD i || (odata.getLsbD i && !v.getLsbD (i + 16)) else odata.getLsbD i := by
  unfold applyBsr
  rw [BitVec.getLsbD_append]
  by_cases h : i < 16
  · simp [h, Bool.or_comm, Nat.add_comm 16 i]
  · simp only [h, if_false, BitVec.getLsbD_extractLsb']
    by_cases h2 : i < 32
    · simp [show i - 16 < 16 by omega, show 16 + (i - 16) = i by omega]
    · have : odata.getLsbD i = false := BitVec.getLsbD_of_ge _ _ (by omega)
      simp [show ¬ i - 16 < 16 by omega, this]

theorem bsrWord_getLsbD (n : PinIx) (l : Level) (i : Nat) :
    (bsrWord n l).getLsbD i = decide (i = if l then n.toNat else n.toNat + 16) := by
  have hn : n.toNat < 16 := n.isLt
  cases l
  · by_cases h : i = n.toNat + 16 <;> simp [bsrWord, h] <;> omega
  · by_cases h : i = n.toNat <;> simp [bsrWord, h] <;> omega

/-- Driving one pin through `BSR` sets its output bit and no other (R18, R70). -/
theorem applyBsr_bsrWord_getLsbD (odata : Word) (n : PinIx) (l : Level) (i : Nat) :
    (applyBsr odata (bsrWord n l)).getLsbD i = if i = n.toNat then l else odata.getLsbD i := by
  have hn : n.toNat < 16 := n.isLt
  rw [applyBsr_getLsbD, bsrWord_getLsbD, bsrWord_getLsbD]
  by_cases hi : i = n.toNat
  · subst hi; cases l <;> simp [hn]
  · cases l
    · by_cases h16 : i < 16 <;> simp [hi, h16]; omega
    · by_cases h16 : i < 16 <;> simp [hi, h16]; omega

/-! ## The display bus: each micro-operation as its events and their replay -/

theorem after_nil (s : State) : after [] s = s := by simp [after, replayAll]

theorem after_append (as bs : List Event) (s : State) : after bs (after as s) = after (as ++ bs) s := by
  simp [after, replayAll_append]

@[simp] theorem after_cfg (es : List Event) (s : State) : (after es s).cfg = s.cfg := rfl
@[simp] theorem after_ports (es : List Event) (s : State) : (after es s).ports = replayAll s.ports es := rfl
@[simp] theorem after_lpd (es : List Event) (s : State) : (after es s).lpd = s.lpd := rfl
@[simp] theorem after_seq (es : List Event) (s : State) : (after es s).seq = s.seq := rfl
@[simp] theorem after_resp (es : List Event) (s : State) : (after es s).resp = s.resp := rfl
@[simp] theorem after_trace (es : List Event) (s : State) : (after es s).trace = s.trace ++ es := rfl
@[simp] theorem after_clken (es : List Event) (s : State) : (after es s).clken = s.clken := rfl
@[simp] theorem after_pads (es : List Event) (s : State) : (after es s).pads = s.pads := rfl
@[simp] theorem after_inbox (es : List Event) (s : State) : (after es s).inbox = s.inbox := rfl
@[simp] theorem after_stream (es : List Event) (s : State) : (after es s).stream = s.stream := rfl
@[simp] theorem after_freeIx (es : List Event) (s : State) : (after es s).freeIx = s.freeIx := rfl

theorem wait_eq (d : Nat) (s : State) : wait d s = after [.wait d] s := rfl

theorem drive_eq (r : Role) (l : Level) (s : State) : drive r l s = after [driveEvent s.lpd.lmap r l] s := rfl

theorem sendNibble_eq (n : Nibble) (s : State) : sendNibble n s = after (nibbleEvents s.cfg s.lpd.lmap n) s := by
  simp only [sendNibble, pulseEnable, driveNibble, drive_eq, wait_eq, after_append, after_lpd, after_cfg]
  rfl

theorem sendByte_eq (b : Byte) (s : State) : sendByte b s = after (byteEvents s.cfg s.lpd.lmap b) s := by
  simp only [sendByte, sendNibble_eq, after_append, after_lpd, after_cfg]
  rfl

theorem sendCommand_eq (b : Byte) (s : State) : sendCommand b s = after (commandEvents s.cfg s.lpd.lmap b) s := by
  simp only [sendCommand, sendByte_eq, drive_eq, after_append, after_lpd, after_cfg]
  rfl

/-- A command byte on the bus: its encoding, the `x` bits 0 (R59). -/
theorem busByte_eq {i : Instr} {b : Byte} (h : encode i = .command b) : busByte i = b &&& ~~~ignoredBits i := by
  simp [busByte, h]

theorem transmit_eq (b : Byte) (s : State) :
    transmit b s = if linesClocked s s.lpd.lmap then .next (after (commandEvents s.cfg s.lpd.lmap b) s)
      else .refused .portClockDisabled := by
  simp only [transmit, sendCommand_eq]

theorem sendData_eq (b : Byte) (s : State) : sendData b s = after (dataEvents s.cfg s.lpd.lmap b) s := by
  simp only [sendData, sendByte_eq, drive_eq, after_append, after_lpd, after_cfg]
  rfl

/-! ## The sequencer -/

@[simp] theorem runActions_nil (s : State) : runActions [] s = .ok s := rfl

theorem runActions_cons {a : Action} {s t : State} (h : perform a s = .ok t) (rest : List Action) :
    runActions (a :: rest) s = runActions rest t := by
  simp [runActions, h]

theorem runActions_append (as bs : List Action) (s : State) :
    runActions (as ++ bs) s = (runActions as s).bind (runActions bs) := by
  induction as generalizing s with
  | nil => rfl
  | cons a rest ih =>
    simp only [List.cons_append, runActions]
    cases perform a s with
    | ok t => exact ih t
    | error e => rfl

/-- If a sequence completes, its first part completes and the rest completes from there. -/
theorem runActions_append_ok {as bs : List Action} {s t : State} :
    runActions (as ++ bs) s = .ok t ↔ ∃ m, runActions as s = .ok m ∧ runActions bs m = .ok t := by
  rw [runActions_append]
  cases runActions as s <;> simp [Except.bind]

/-- An invariant of every step of a sequence is one of the sequence. -/
theorem runActions_induction {P : State → Prop} {as : List Action}
    (hstep : ∀ a ∈ as, ∀ s t, perform a s = .ok t → P s → P t) {s t : State} (h : runActions as s = .ok t) (hs : P s) :
    P t := by
  induction as generalizing s with
  | nil => simp at h; exact h ▸ hs
  | cons a rest ih =>
    simp only [runActions] at h
    split at h
    · rename_i m hm
      exact ih (fun b hb => hstep b (List.mem_cons_of_mem _ hb)) h (hstep a (List.mem_cons_self ..) s m hm hs)
    · simp at h

/-! ## Acceptance -/

/-- An operation that answers a next state was presented to an idle block, passed every check, and ran its sequence. -/
theorem operate_next {op : Instr} {checks : List (Bool × Refusal)} {steps : List Action} {s t : State} :
    operate op checks steps s = .next t ↔
      s.seq = .idle ∧ firstRefusal checks = none ∧ runActions steps (accepted op steps s) = .ok t := by
  unfold operate
  cases hs : s.seq with
  | busy o td => simp
  | idle =>
    cases hc : firstRefusal checks with
    | some e => simp
    | none => cases hr : runActions steps (accepted op steps s) <;> simp [toOutcome]

theorem firstRefusal_none {checks : List (Bool × Refusal)} :
    firstRefusal checks = none ↔ ∀ c ∈ checks, c.1 = true := by
  induction checks with
  | nil => simp [firstRefusal]
  | cons c rest ih =>
    obtain ⟨h, e⟩ := c
    cases h <;> simp [firstRefusal, ih]

end Sys2Proof.Machine
end

