-- ==== Sys2Proof/Laws/Acceptance.lean ====
section
/-! SUPPORT. What the acceptance checks of the operations say (R68, R82, R93). -/

namespace Sys2Proof.Machine

theorem portExists_iff {s : State} {p : PortIx} : portExists s p = true ↔ p.toNat < s.cfg.nports := by
  simp [portExists]

theorem clockOn_iff {s : State} {p : PortIx} :
    clockOn s p = true ↔ p.toNat < s.cfg.nports ∧ s.clken.getLsbD p.toNat = true := by
  simp [clockOn, portExists]

theorem linesExist_iff {s : State} {m : LineMap} :
    linesExist s m = true ↔ ∀ r ∈ Role.all, (m.pin r).port.toNat < s.cfg.nports := by
  simp [linesExist, portExists]

theorem linesClocked_iff {s : State} {m : LineMap} : linesClocked s m = true ↔ LinesReady s m := by
  simp [linesClocked, clockOn_iff, LinesReady]

theorem portChecks_none {s : State} {p : PortIx} :
    firstRefusal (portChecks s p) = none ↔ p.toNat < s.cfg.nports ∧ s.clken.getLsbD p.toNat = true := by
  simp [firstRefusal_none, portChecks, portExists_iff, clockOn_iff]

theorem configureChecks_none {s : State} {d : Descriptor} :
    firstRefusal (configureChecks s d) = none ↔
      d.port.toNat < s.cfg.nports ∧ d.pull ≠ 0b11#2 ∧ s.clken.getLsbD d.port.toNat = true := by
  simp only [firstRefusal_none, configureChecks, List.mem_cons, List.not_mem_nil, or_false, forall_eq_or_imp, forall_eq,
    portExists_iff, clockOn_iff, bne_iff_ne]
  tauto

theorem lcdChecks_none {s : State} :
    firstRefusal (lcdChecks s) = none ↔ s.lpd.initDone = true ∧ LinesReady s s.lpd.lmap := by
  simp [firstRefusal_none, lcdChecks, linesClocked_iff]

theorem initChecks_none {s : State} : firstRefusal (initChecks s) = none ↔ LinesReady s s.cfg.linemap := by
  simp only [firstRefusal_none, initChecks, List.mem_cons, List.not_mem_nil, or_false, forall_eq_or_imp, forall_eq,
    linesExist_iff, linesClocked_iff]
  exact ⟨fun h => h.2, fun h => ⟨fun r hr => (h r hr).1, h⟩⟩

/-- An operation presented to an idle block that passes its checks answers what its sequence leaves. -/
theorem operate_accepted {op : Instr} {checks : List (Bool × Refusal)} {steps : List Action} {s t : State}
    (hidle : s.seq = .idle) (hc : firstRefusal checks = none) (hrun : runActions steps (accepted op steps s) = .ok t) :
    operate op checks steps s = .next t :=
  operate_next.mpr ⟨hidle, hc, hrun⟩

/-- A busy block refuses every operation (R27). -/
theorem operate_busy {op o : Instr} {todo : List Action} {s : State} (h : s.seq = .busy o todo)
    (checks : List (Bool × Refusal)) (steps : List Action) : operate op checks steps s = .refused .busy := by
  simp [operate, h]

/-- A failing check names the refusal of an idle block. -/
theorem operate_refused {op : Instr} {checks : List (Bool × Refusal)} {s : State} {e : Refusal} (h : s.seq = .idle)
    (hc : firstRefusal checks = some e) (steps : List Action) : operate op checks steps s = .refused e := by
  simp [operate, h, hc]

/-- No operation faults (R101). -/
theorem operate_ne_fault (op : Instr) (checks : List (Bool × Refusal)) (steps : List Action) (s : State) (f : Fault) :
    operate op checks steps s ≠ .fault f := by
  unfold operate
  cases s.seq with
  | busy _ _ => simp
  | idle =>
    cases firstRefusal checks with
    | some e => simp
    | none => cases runActions steps (accepted op steps s) <;> simp [toOutcome]

end Sys2Proof.Machine
end

