-- ==== Sys2Proof/Laws/Gpio.lean ====
section
/-! SUPPORT. The register fields, bit by bit, and the sequence of `GPIO_CONFIGURE` as its events (R42, R69). -/

namespace Sys2Proof.Machine

/-! ## Fields -/

theorem fieldMask_getLsbD (off w i : Nat) :
    (fieldMask off w).getLsbD i = (decide (i < 32) && decide (off ≤ i) && decide (i < off + w)) := by
  have hlow : ∀ j, ((1#32 <<< w) - 1#32).getLsbD j = (decide (j < 32) && decide (j < w)) := by
    intro j
    by_cases hw : w < 32
    · have hx : (1#32 <<< w) - 1#32 = BitVec.ofNat 32 (2 ^ w - 1) := by
        apply BitVec.eq_of_toNat_eq
        have hp : 2 ^ w < 2 ^ 32 := Nat.pow_lt_pow_right (by decide) hw
        have h1 : 1 ≤ 2 ^ w := Nat.one_le_two_pow
        simp only [BitVec.toNat_sub, BitVec.toNat_shiftLeft, BitVec.toNat_ofNat, Nat.shiftLeft_eq]
        omega
      rw [hx, BitVec.getLsbD_ofNat, Nat.testBit_two_pow_sub_one]
    · have hz : (1#32 <<< w) = 0#32 := by
        apply BitVec.eq_of_getLsbD_eq
        intro k hk
        simp; omega
      have : ((1#32 <<< w) - 1#32) = BitVec.allOnes 32 := by rw [hz]; decide
      rw [this, BitVec.getLsbD_allOnes]
      by_cases hj : j < 32 <;> simp [hj]; omega
  unfold fieldMask
  rw [BitVec.getLsbD_shiftLeft, hlow]
  by_cases h1 : i < 32 <;> by_cases h2 : off ≤ i <;> by_cases h3 : i < off + w <;> simp [h1, h2, h3] <;> omega

/-- A cleared field, bit by bit. -/
theorem fieldClear_getLsbD (off w : Nat) (a : Word) (i : Nat) :
    (fieldClear off w a).getLsbD i = (a.getLsbD i && !(decide (off ≤ i) && decide (i < off + w))) := by
  unfold fieldClear
  rw [BitVec.getLsbD_and, BitVec.getLsbD_not, fieldMask_getLsbD]
  by_cases h : i < 32
  · simp [h]
  · simp [BitVec.getLsbD_of_ge a i (by omega)]

/-- A field update, bit by bit: the value inside the field, the old bits outside (R42). -/
theorem fieldSet_clear_getLsbD {off w : Nat} {val : Word} (hfit : off + w ≤ 32) (hval : val.toNat < 2 ^ w) (a : Word)
    (i : Nat) :
    (fieldSet off val (fieldClear off w a)).getLsbD i =
      if off ≤ i ∧ i < off + w then val.getLsbD (i - off) else a.getLsbD i := by
  have hv : ∀ j, w ≤ j → val.getLsbD j = false := fun j hj => by
    rw [← BitVec.testBit_toNat]
    exact Nat.testBit_lt_two_pow (Nat.lt_of_lt_of_le hval (Nat.pow_le_pow_right (by decide) hj))
  unfold fieldSet
  rw [BitVec.getLsbD_or, fieldClear_getLsbD, BitVec.getLsbD_shiftLeft]
  by_cases h1 : off ≤ i
  · by_cases h2 : i < off + w
    · simp [h1, h2, show i < 32 by omega]
    · simp [h1, h2, hv (i - off) (by omega)]
  · simp [h1]

theorem fieldGet_getLsbD (off w : Nat) (a : Word) (j : Nat) :
    (fieldGet off w a).getLsbD j = (a.getLsbD (off + j) && (decide (j < 32) && decide (j < w))) := by
  have := fieldMask_getLsbD 0 w j
  simp only [fieldMask, BitVec.shiftLeft_zero, Nat.zero_le, decide_true, Bool.and_true, Nat.zero_add] at this
  unfold fieldGet
  rw [BitVec.getLsbD_and, BitVec.getLsbD_ushiftRight, this]

/-- A field reads as the value it was updated with (R42). -/
theorem fieldGet_fieldSet {off w : Nat} {val : Word} (hfit : off + w ≤ 32) (hval : val.toNat < 2 ^ w) (a : Word) :
    fieldGet off w (fieldSet off val (fieldClear off w a)) = val := by
  apply BitVec.eq_of_getLsbD_eq
  intro j hj
  rw [fieldGet_getLsbD, fieldSet_clear_getLsbD hfit hval]
  by_cases h : j < w
  · simp [h, hj]
  · have : val.getLsbD j = false := by
      rw [← BitVec.testBit_toNat]
      exact Nat.testBit_lt_two_pow (Nat.lt_of_lt_of_le hval (Nat.pow_le_pow_right (by decide) (by omega)))
    simp [h, this]

/-- A field away from the one updated reads as before. -/
theorem fieldGet_fieldSet_other {off w off' w' : Nat} {val : Word} (hfit : off + w ≤ 32) (hval : val.toNat < 2 ^ w)
    (hdis : off' + w' ≤ off ∨ off + w ≤ off') (a : Word) :
    fieldGet off' w' (fieldSet off val (fieldClear off w a)) = fieldGet off' w' a := by
  apply BitVec.eq_of_getLsbD_eq
  intro j _
  rw [fieldGet_getLsbD, fieldGet_getLsbD, fieldSet_clear_getLsbD hfit hval]
  by_cases h : j < w'
  · rw [if_neg (by omega)]
  · simp [h]

/-- Updating a field twice with one value is updating it once (R42). -/
theorem fieldSet_twice {off w : Nat} {val : Word} (hfit : off + w ≤ 32) (hval : val.toNat < 2 ^ w) (a : Word) :
    fieldSet off val (fieldClear off w (fieldSet off val (fieldClear off w a))) =
      fieldSet off val (fieldClear off w a) := by
  apply BitVec.eq_of_getLsbD_eq
  intro i _
  rw [fieldSet_clear_getLsbD hfit hval, fieldSet_clear_getLsbD hfit hval]
  by_cases h : off ≤ i ∧ i < off + w
  · rw [if_pos h, if_pos h]
  · rw [if_neg h, if_neg h]

/-! ## Field updates as events -/

/-- After a field update's events the register of that port holds the updated value. -/
theorem portAt_fieldEvents (ps : Vector Port 16) (p : PortIx) (r : Reg) (off w : Nat) (val a : Word) :
    portAt (replayAll ps (fieldEvents p r off w val a)) p =
      ((portAt ps p).write r (fieldClear off w a)).write r (fieldSet off val (fieldClear off w a)) := by
  simp [fieldEvents, portAt_replay_wr]

theorem portAt_fieldEvents_ne {p p' : PortIx} (h : p' ≠ p) (ps : Vector Port 16) (r : Reg) (off w : Nat)
    (val a : Word) : portAt (replayAll ps (fieldEvents p r off w val a)) p' = portAt ps p' := by
  simp [fieldEvents, portAt_replay_wr, h]

/-- An operand of `n` bits fits a field of `n` bits. -/
theorem zext_lt {n : Nat} (x : BitVec n) : (x.zeroExtend 32).toNat < 2 ^ n := by
  rw [BitVec.toNat_setWidth]
  exact Nat.lt_of_le_of_lt (Nat.mod_le _ _) x.isLt

theorem after_fieldEvents_stored {p : PortIx} {r r' : Reg} (h : r' ≠ r) (hb : r ≠ .bsr) (s : State) (off w : Nat)
    (val a : Word) :
    (port (after (fieldEvents p r off w val a) s) p).stored r' = (port s p).stored r' := by
  show (portAt (replayAll s.ports _) p).stored r' = _
  rw [portAt_fieldEvents, stored_write_ne h hb, stored_write_ne h hb]
  rfl

/-- A field update as its events, in the words of `after`. -/
theorem fieldWrite_after {p : PortIx} {r : Reg} {s : State} {a : Word} (off w : Nat) (val : Word)
    (h : (port s p).stored r = some a) : fieldWrite p r off w val s = .ok (after (fieldEvents p r off w val a) s) :=
  fieldWrite_events off w val h

/-- The four field updates every descriptor makes, as their events (R69, R84). -/
theorem four_fieldWrites (p : PortIx) (o1 o2 o3 o4 : Nat) (v1 v2 v3 v4 : Word) (s : State) :
    ((fieldWrite p .mode o1 2 v1 s).bind fun s1 => (fieldWrite p .otype o2 1 v2 s1).bind fun s2 =>
      (fieldWrite p .speed o3 2 v3 s2).bind fun s3 => fieldWrite p .pull o4 2 v4 s3) =
    .ok (after (fieldEvents p .mode o1 2 v1 (port s p).mode ++ fieldEvents p .otype o2 1 v2 (port s p).otype ++
      fieldEvents p .speed o3 2 v3 (port s p).speed ++ fieldEvents p .pull o4 2 v4 (port s p).pull) s) := by
  rw [fieldWrite_after (a := (port s p).mode) _ _ _ rfl]
  simp only [Except.bind]
  rw [fieldWrite_after (a := (port s p).otype)]
  · simp only [after_append]
    rw [fieldWrite_after (a := (port s p).speed)]
    · simp only [after_append]
      rw [fieldWrite_after (a := (port s p).pull)]
      · simp only [after_append]
      · rw [← after_append, ← after_append]
        simp only [after_fieldEvents_stored (r' := .pull) (r := .mode) (by decide) (by decide),
          after_fieldEvents_stored (r' := .pull) (r := .otype) (by decide) (by decide),
          after_fieldEvents_stored (r' := .pull) (r := .speed) (by decide) (by decide)]
        rfl
    · rw [← after_append]
      simp only [after_fieldEvents_stored (r' := .speed) (r := .mode) (by decide) (by decide),
        after_fieldEvents_stored (r' := .speed) (r := .otype) (by decide) (by decide)]
      rfl
  · rw [after_fieldEvents_stored (by decide) (by decide)]; rfl

end Sys2Proof.Machine
end

