-- ==== Sys2Proof/Laws/Lcd.lean ====
section
/-! SUPPORT. The steps of the LCD operations as events, the levels of the lines under a replay, and what the controller
latches (R75 to R81, R84). -/

namespace Sys2Proof.Machine

/-! ## Steps as events -/

theorem perform_wait (d : Nat) (s : State) : perform (.wait d) s = .ok (after [.wait d] s) := rfl

theorem perform_drive (r : Role) (l : Level) (s : State) :
    perform (.drive r l) s = .ok (after [driveEvent s.lpd.lmap r l] s) := rfl

theorem perform_nibble (n : Nibble) (s : State) :
    perform (.nibble n) s = .ok (after (nibbleEvents s.cfg s.lpd.lmap n) s) := by
  simp [perform, sendNibble_eq]

theorem perform_command {b : Byte} (h : b ≠ 0) (s : State) :
    perform (.command b) s = .ok (after (commandEvents s.cfg s.lpd.lmap b) s) := by
  have h' : ¬b = 0#8 := h
  simp [perform, sendCommand_eq, h']

theorem perform_data (b : Byte) (s : State) :
    perform (.data b) s = .ok (after (dataEvents s.cfg s.lpd.lmap b) s) := by
  simp [perform, sendData_eq]

/-- Phase P2 for one role is the register writes of its descriptor (R84). -/
theorem perform_setupPin (r : Role) (s : State) (h : s.lpd.lmap = s.cfg.linemap) :
    perform (.setupPin r) s =
      .ok (after (configureEvents (port s (s.cfg.linemap.pin r).port) (lineDescriptor s.cfg r)) s) := by
  have := four_fieldWrites (s.lpd.lmap.pin r).port (off2 (s.lpd.lmap.pin r).pin) (off1 (s.lpd.lmap.pin r).pin)
    (off2 (s.lpd.lmap.pin r).pin) (off2 (s.lpd.lmap.pin r).pin) 0b01#32 0#32 (s.cfg.pinSpeed.zeroExtend 32) 0b00#32 s
  refine this.trans ?_
  rw [h]
  simp [configureEvents, lineDescriptor, off1, off2]

/-- A line of a replay of `BSR` writes: driving one pin sets its bit and no other (R18, R75). -/
theorem odata_replay_drive (ps : Vector Port 16) (m : LineMap) (r : Role) (l : Level) (p : PortIx) (i : Nat) :
    (portAt (replay ps (driveEvent m r l)) p).odata.getLsbD i =
      if p = (m.pin r).port ∧ i = (m.pin r).pin.toNat then l else (portAt ps p).odata.getLsbD i := by
  unfold driveEvent
  rw [portAt_replay_wr]
  by_cases hp : p = (m.pin r).port
  · subst hp
    simp only [if_true, Port.write, applyBsr_bsrWord_getLsbD, true_and]
  · simp [hp]

/-- Driving a line of a map whose lines are distinct moves that line and no other (R6 clause 5, R75). -/
theorem lineLevel_replay_drive {m : LineMap} (hm : m.Distinct) (ps : Vector Port 16) (r r' : Role) (l : Level) :
    lineLevel (replay ps (driveEvent m r l)) m r' = if r' = r then l else lineLevel ps m r' := by
  unfold lineLevel
  rw [odata_replay_drive]
  by_cases h : r' = r
  · simp [h]
  · have hne : m.pin r' ≠ m.pin r := by
      intro he
      have : ∀ a b : Role, m.pin a = m.pin b → a = b := by
        simp only [LineMap.Distinct, Role.all, List.map_cons, List.map_nil, List.nodup_cons, List.mem_cons,
          List.not_mem_nil, or_false, not_or] at hm
        intro a b hab
        cases a <;> cases b <;> simp_all
      exact h (this r' r he)
    have : ¬((m.pin r').port = (m.pin r).port ∧ (m.pin r').pin.toNat = (m.pin r).pin.toNat) := by
      rintro ⟨h1, h2⟩
      apply hne
      have h2' := BitVec.eq_of_toNat_eq h2
      cases h3 : m.pin r'
      cases h4 : m.pin r
      simp_all
    simp [h, this]

theorem latches_append (m : LineMap) (ps : Vector Port 16) (as bs : List Event) :
    latches m ps (as ++ bs) = latches m ps as ++ latches m (replayAll ps as) bs := by
  induction as generalizing ps with
  | nil => rfl
  | cons e rest ih =>
    simp only [List.cons_append, latches, replayAll_cons, ih]
    split <;> simp

/-- One nibble transfer on a quiet bus with distinct lines: the controller latches the nibble, once (R76, R81). -/
theorem latches_nibble {m : LineMap} (hm : m.Distinct) (c : Cfg) (ps : Vector Port 16) (n : Nibble)
    (he : lineLevel ps m .e = false) :
    latches m ps (nibbleEvents c m n) = [⟨lineLevel ps m .rs, lineLevel ps m .rw, n⟩] := by
  have hn : BitVec.ofBool (n.getLsbD 3) ++ BitVec.ofBool (n.getLsbD 2) ++ BitVec.ofBool (n.getLsbD 1) ++
      BitVec.ofBool (n.getLsbD 0) = n := by revert n; decide
  simp [nibbleEvents, latches, lineLevel_replay_drive hm, he, sample]
  simpa using hn

/-- The lines after a nibble transfer: the data lines show it, enable is Low, the other two are as before (R76). -/
theorem lineLevel_nibble {m : LineMap} (hm : m.Distinct) (c : Cfg) (ps : Vector Port 16) (n : Nibble) (r : Role) :
    lineLevel (replayAll ps (nibbleEvents c m n)) m r =
      match r with
      | .rs => lineLevel ps m .rs
      | .rw => lineLevel ps m .rw
      | .e => false
      | .d0 => n.getLsbD 0
      | .d1 => n.getLsbD 1
      | .d2 => n.getLsbD 2
      | .d3 => n.getLsbD 3 := by
  cases r <;> simp [nibbleEvents, lineLevel_replay_drive hm]

end Sys2Proof.Machine
end

