-- ==== Sys2Proof/Laws/PerInstr.lean ====
section
/-! SUPPORT. The family `EncodingSpace`: which of the two encoding spaces of R50 each instruction's encoding lies in, and
how many operand bytes its request word calls for (spec/30_encoding.md R51, R56, R59). -/

open Sys2Proof Sys2Proof.Machine

/-- Only the eight LCD instructions are bytes of the display bus, and none of them is `0x00`; every other instruction is
a request word, with `LEN` operand bytes if it is a format `LS` word and with none otherwise. -/
def Sys2Proof.Laws.EncodingSpace.Statement (i : Instr) : Prop :=
  match encode i with
  | .command b => isCommandByte i = true ∧ b ≠ 0
  | .request w bytes =>
    isCommandByte i = false ∧
    (reqOpc w = 0xD#4 → i.wellFormed = true → bytes.length = (reqLen w).toNat) ∧ (reqOpc w ≠ 0xD#4 → bytes = [])

namespace Sys2Proof.Laws.EncodingSpace

/-- A request word whose opcode differs from a string's in some bit has another opcode. -/
theorem opcode_ne {w : Word} (k : Nat) (h : w.getLsbD (28 + k) ≠ (0xD#4).getLsbD k) : reqOpc w ≠ 0xD#4 := by
  intro e
  have := congrArg (fun o => o.getLsbD k) e
  by_cases hk : k < 4
  · simp [reqOpc, hk] at this h; exact h this
  · exact h (by rw [BitVec.getLsbD_of_ge _ _ (by omega), BitVec.getLsbD_of_ge _ _ (by omega)])

/-- A request without operand bytes whose opcode is not that of a string. -/
theorem of_word {i : Instr} {w : Word} (k : Nat) (h : encode i = .request w []) (hb : isCommandByte i = false)
    (hk : w.getLsbD (28 + k) ≠ (0xD#4).getLsbD k) : Statement i := by
  unfold Statement
  rw [h]
  exact ⟨hb, fun e => absurd e (opcode_ne k hk), fun _ => rfl⟩

theorem gpioConfigure (d : Option Descriptor) : Statement (.gpioConfigure d) := by
  cases d with
  | none => exact of_word 2 rfl rfl (by decide)
  | some d => exact of_word 2 rfl rfl (by unfold encodeDescriptor; (repeat rw [BitVec.getLsbD_append]); simp)

theorem gpioWrite (p : PortIx) (n : PinIx) (l : Level) : Statement (.gpioWrite p n l) :=
  of_word 0 rfl rfl (by (repeat rw [BitVec.getLsbD_append]); simp)

theorem gpioRead (p : PortIx) (n : PinIx) : Statement (.gpioRead p n) :=
  of_word 1 rfl rfl (by (repeat rw [BitVec.getLsbD_append]); simp)

theorem gpioToggle (p : PortIx) (n : PinIx) : Statement (.gpioToggle p n) :=
  of_word 0 rfl rfl (by (repeat rw [BitVec.getLsbD_append]); simp)

theorem lcdInit : Statement .lcdInit := of_word 0 rfl rfl (by decide)

theorem lcdClear : Statement .lcdClear := of_word 2 rfl rfl (by decide)

theorem lcdHome : Statement .lcdHome := of_word 0 rfl rfl (by decide)

theorem lcdSetCursor (row col : Byte) : Statement (.lcdSetCursor row col) :=
  of_word 1 rfl rfl (by (repeat rw [BitVec.getLsbD_append]); simp)

theorem lcdPrintChar (c : Byte) : Statement (.lcdPrintChar c) :=
  of_word 0 rfl rfl (by (repeat rw [BitVec.getLsbD_append]); simp)

theorem lcdPrintString (str : List Byte) : Statement (.lcdPrintString str) := by
  refine ⟨rfl, fun _ hw => ?_, fun h => absurd ?_ h⟩
  · simp only [Instr.wellFormed, decide_eq_true_eq] at hw
    have : reqLen (0xD#4 ++ BitVec.ofNat 16 str.length ++ 0#12) = BitVec.ofNat 16 str.length := by
      apply BitVec.eq_of_getLsbD_eq
      intro i hi
      unfold reqLen
      rw [BitVec.getLsbD_extractLsb']
      repeat rw [BitVec.getLsbD_append]
      simp [hi]
    rw [this, BitVec.toNat_ofNat, Nat.mod_eq_of_lt (by omega)]
  · apply BitVec.eq_of_getLsbD_eq
    intro i hi
    unfold reqOpc
    rw [BitVec.getLsbD_extractLsb']
    repeat rw [BitVec.getLsbD_append]
    simp [hi, show ¬28 + i - 12 < 16 by omega, show ¬28 + i < 12 by omega, show 28 + i - 12 - 16 = i by omega]

theorem reserved0 (x : BitVec 28) : Statement (.reserved0 x) :=
  of_word 0 rfl rfl (by (repeat rw [BitVec.getLsbD_append]); simp)

theorem reserved5 (x : BitVec 28) : Statement (.reserved5 x) :=
  of_word 3 rfl rfl (by (repeat rw [BitVec.getLsbD_append]); simp)

theorem reserved6 (x : BitVec 28) : Statement (.reserved6 x) :=
  of_word 0 rfl rfl (by (repeat rw [BitVec.getLsbD_append]); simp)

theorem reserved7 (x : BitVec 28) : Statement (.reserved7 x) :=
  of_word 1 rfl rfl (by (repeat rw [BitVec.getLsbD_append]); simp)

theorem reservedE (x : BitVec 28) : Statement (.reservedE x) :=
  of_word 0 rfl rfl (by (repeat rw [BitVec.getLsbD_append]); simp)

theorem reservedF (x : BitVec 28) : Statement (.reservedF x) :=
  of_word 1 rfl rfl (by (repeat rw [BitVec.getLsbD_append]); simp)

/-- An LCD instruction byte with a 1 at bit `k`. -/
theorem of_byte {i : Instr} {b : Byte} (k : Nat) (h : encode i = .command b) (hb : isCommandByte i = true)
    (hk : b.getLsbD k = true) : Statement i := by
  unfold Statement
  rw [h]
  refine ⟨hb, fun e => ?_⟩
  subst e
  simp at hk

theorem clearDisplay : Statement .clearDisplay := of_byte 0 rfl rfl (by decide)

theorem returnHome (x : BitVec 1) : Statement (.returnHome x) :=
  of_byte 1 rfl rfl (by (repeat rw [BitVec.getLsbD_append]); simp)

theorem entryModeSet (id s : BitVec 1) : Statement (.entryModeSet id s) :=
  of_byte 2 rfl rfl (by (repeat rw [BitVec.getLsbD_append]); simp)

theorem displayControl (d c b : BitVec 1) : Statement (.displayControl d c b) :=
  of_byte 3 rfl rfl (by (repeat rw [BitVec.getLsbD_append]); simp)

theorem cursorDisplayShift (sc rl : BitVec 1) (x : BitVec 2) : Statement (.cursorDisplayShift sc rl x) :=
  of_byte 4 rfl rfl (by (repeat rw [BitVec.getLsbD_append]); simp)

theorem functionSet (dl n f : BitVec 1) (x : BitVec 2) : Statement (.functionSet dl n f x) :=
  of_byte 5 rfl rfl (by (repeat rw [BitVec.getLsbD_append]); simp)

theorem setCgramAddress (a : BitVec 6) : Statement (.setCgramAddress a) :=
  of_byte 6 rfl rfl (by (repeat rw [BitVec.getLsbD_append]); simp)

theorem setDdramAddress (a : BitVec 7) : Statement (.setDdramAddress a) :=
  of_byte 7 rfl rfl (by (repeat rw [BitVec.getLsbD_append]); simp)

end Sys2Proof.Laws.EncodingSpace
end

