-- ==== Sys2Proof/Laws/SmallSteps.lean ====
section
/-! SUPPORT. The nested steps of R90: run one after another they are the step they unfold, and what a
busy block does next is the first of them. -/

namespace Sys2Proof.Machine

theorem smallSteps_ne_nil (s : State) (a : Action) : smallSteps s a ≠ [] := by
  cases a <;> simp [smallSteps, fieldSteps, nibbleSteps, transactionSteps, setupSteps]
  split <;> simp

theorem runActions_nibbleSteps (n : Nibble) (s : State) :
    runActions (nibbleSteps s.cfg n) s = .ok (sendNibble n s) := rfl

theorem runActions_transactionSteps (rs : Level) (b : Byte) (s : State) :
    runActions (transactionSteps s.cfg rs b) s = .ok (sendByte b (drive .rs rs s)) := rfl

theorem runActions_fieldSteps (p : PortIx) (r : Reg) (off w : Nat) (val : Word) (s : State) :
    runActions (fieldSteps p r off w val) s = fieldWrite p r off w val s := by
  simp only [fieldSteps, runActions, perform, fieldWrite]
  cases clearField p r off w s with
  | error e => rfl
  | ok t => simp only [Except.bind]; cases setField p r off val t <;> rfl

/-- A step's small steps, performed one after another, are the step (R27, R90). -/
theorem runActions_smallSteps (a : Action) (s : State) : runActions (smallSteps s a) s = perform a s := by
  have single : ∀ x : Action, runActions [x] s = perform x s := fun x => by
    simp only [runActions]; cases perform x s <;> rfl
  cases a with
  | nibble n => exact runActions_nibbleSteps n s
  | data b => exact runActions_transactionSteps true b s
  | command b =>
    by_cases h : b = 0
    · simp only [smallSteps, h, if_true]; exact single _
    · simp only [smallSteps, perform, h, if_false]; exact runActions_transactionSteps false b s
  | fieldWrite p r off w val => exact runActions_fieldSteps p r off w val s
  | setupPin role =>
    simp only [smallSteps, setupSteps, runActions_append, runActions_fieldSteps, perform, setupPin]
    simp only [Except.bind]
    cases fieldWrite _ _ _ _ _ s with
    | error e => rfl
    | ok t =>
      simp only [runActions_fieldSteps]
      cases fieldWrite _ _ _ _ _ t with
      | error e => rfl
      | ok u => rfl
  | _ => exact single _

/-- What a busy block does next, unless a reset is pending or a byte is to be taken whole: the first small step. -/
theorem fetch_busy {s : State} {op : Instr} {a x : Action} {rest more : List Action} (hseq : s.seq = .busy op (a :: rest))
    (hbyte : ∀ b, a ≠ .instructionByte b) (hreset : NoReset s) (hsmall : smallSteps s a = x :: more) :
    fetch s = .micro x { s with seq := .busy op (more ++ rest) } := by
  unfold fetch
  split
  · rename_i r h; exact absurd h (hreset r)
  · rw [hseq]
    cases a <;> first | exact absurd rfl (hbyte _) | simp [fetchBusy, hsmall]

/-- A reset comes before anything else (R116). -/
theorem fetch_reset {s : State} {rest : List HostEvent} (h : s.inbox = .world .reset :: rest) :
    fetch s = .outside .reset { s with inbox := rest } := by
  simp [fetch, h]

end Sys2Proof.Machine
end

