-- ==== Sys2Proof/Tests/Slice0.lean ====
section
/-! SUPPORT. The model's own tests. Every expected value is written out from spec/: the words and traces of
spec/95_test_vectors.md (the vector's name stands in each docstring), the tables of spec/30_encoding.md. After them, for
each obligation with hypotheses, a state and operands that meet them. -/

open Sys2Proof Sys2Proof.Machine

namespace Sys2Proof.Tests

/-! ## Well-formedness -/

/-- R56: `LEN` is 16 bits, so 65536 characters have no encoding and 65535 have. -/
theorem test_wellFormed_refuses_long_string :
    (Instr.lcdPrintString (List.replicate 65536 0x41#8)).wellFormed = false ∧
    (Instr.lcdPrintString (List.replicate 65535 0x41#8)).wellFormed = true := by
  constructor <;> simp only [Instr.wellFormed, List.length_replicate] <;> decide

/-! ## Decoding: words written out bit by bit from R51 to R57 and R59, or taken from spec/95_test_vectors.md -/

/-- §3.1: `0x109DD500` is `0001 0000 1001 1 10 1 11 01 0101 00000000`. -/
theorem test_decode_gpioConfigure :
    decodeTableWord 32 0x109DD500 = some (.gpioConfigure (some ⟨0, 9, 0b10, 1, 0b11, 0b01, 5⟩)) ∧
    decodeTableWord 32 0x12DA4000 = some (.gpioConfigure (some ⟨2, 13, 0b01, 0, 0b01, 0b00, 0⟩)) ∧
    decodeTableWord 32 0b0001_0000_0000_0_00_0_00_00_0000_00000000 = some (.gpioConfigure none) ∧
    decodeTableWord 32 0x100A0001 = none := by decide

/-- §3.2: `0010 0001 0100 1 000…`. -/
theorem test_decode_gpioWrite :
    decodeTableWord 32 0b0010_0001_0100_1_0000000000000000000 = some (.gpioWrite 1 4 true) ∧
    decodeTableWord 32 0x20F00000 = some (.gpioWrite 0 15 false) ∧ decodeTableWord 32 0x20F40000 = none := by decide

/-- §3.2. -/
theorem test_decode_gpioRead :
    decodeTableWord 32 0b0011_0010_1111_00000000000000000000 = some (.gpioRead 2 15) ∧
    decodeTableWord 32 0x32F80000 = none := by decide

/-- §3.2. -/
theorem test_decode_gpioToggle :
    decodeTableWord 32 0b0100_0010_1101_00000000000000000000 = some (.gpioToggle 2 13) ∧
    decodeTableWord 32 0x42D80000 = none := by decide

/-- §4 and L19. -/
theorem test_decode_lcd_words :
    decodeTableWord 32 0x80000000 = some .lcdInit ∧ decodeTableWord 32 0x90000000 = some .lcdClear ∧
    decodeTableWord 32 0xA0000000 = some .lcdHome ∧ decodeTableWord 32 0x80000001 = none ∧
    decodeTableWord 32 0x90000001 = none ∧ decodeTableWord 32 0xA8000000 = none := by decide

/-- §4, L9 and L19: `1011 00000001 00000000 0…`. -/
theorem test_decode_lcdSetCursor :
    decodeTableWord 32 0b1011_00000001_00000000_000000000000 = some (.lcdSetCursor 1 0) ∧
    decodeTableWord 32 0xB0005000 = some (.lcdSetCursor 0 5) ∧
    decodeTableWord 32 0xBFFFF000 = some (.lcdSetCursor 255 255) ∧ decodeTableWord 32 0xB0100001 = none := by decide

/-- P4 step 2 and L19. -/
theorem test_decode_lcdPrintChar :
    decodeTableWord 32 0b1100_00100001_00000000000000000000 = some (.lcdPrintChar 0x21) ∧
    decodeTableWord 32 0xC4800001 = none := by decide

/-- P3 step 2 and L19: the bytes behind the word are taken in order, and those behind them stay. -/
theorem test_decode_lcdPrintString :
    (decodeRequest 0xD0002000 [0x48, 0x49, 0x50]).toOption = some (.lcdPrintString [0x48, 0x49], [0x50]) ∧
    decodeTableWord 32 0xD0002000 = some (.lcdPrintString [0, 0]) ∧ decodeTableWord 32 0xD0002001 = none := by decide

/-- R57: the six reserved opcodes, whatever the other bits. -/
theorem test_decode_reserved :
    decodeTableWord 32 0x00000000 = some (.reserved0 0) ∧ decodeTableWord 32 0x50000001 = some (.reserved5 1) ∧
    decodeTableWord 32 0x60000000 = some (.reserved6 0) ∧ decodeTableWord 32 0x7FFFFFFF = some (.reserved7 0xFFFFFFF) ∧
    decodeTableWord 32 0xE0000000 = some (.reservedE 0) ∧ decodeTableWord 32 0xF0000000 = some (.reservedF 0) := by decide

/-- §4.3, first half of the table. -/
theorem test_decode_bytes_low :
    decodeTableWord 8 0x01 = some .clearDisplay ∧ decodeTableWord 8 0x02 = some (.returnHome 0) ∧
    decodeTableWord 8 0x03 = some (.returnHome 1) ∧ decodeTableWord 8 0x04 = some (.entryModeSet 0 0) ∧
    decodeTableWord 8 0x05 = some (.entryModeSet 0 1) ∧ decodeTableWord 8 0x06 = some (.entryModeSet 1 0) ∧
    decodeTableWord 8 0x08 = some (.displayControl 0 0 0) ∧ decodeTableWord 8 0x0C = some (.displayControl 1 0 0) ∧
    decodeTableWord 8 0x0F = some (.displayControl 1 1 1) ∧ decodeTableWord 8 0x00 = none := by decide

/-- §4.3, second half, and `0x18` by the table of R59 and R60: Cursor/Display-Shift with `S/C` alone. -/
theorem test_decode_bytes_high :
    decodeTableWord 8 0x1C = some (.cursorDisplayShift 1 1 0) ∧
    decodeTableWord 8 0x18 = some (.cursorDisplayShift 1 0 0) ∧
    decodeTableWord 8 0x28 = some (.functionSet 0 1 0 0) ∧ decodeTableWord 8 0x38 = some (.functionSet 1 1 0 0) ∧
    decodeTableWord 8 0x3F = some (.functionSet 1 1 1 3) ∧ decodeTableWord 8 0x40 = some (.setCgramAddress 0x00) ∧
    decodeTableWord 8 0x7F = some (.setCgramAddress 0x3F) ∧ decodeTableWord 8 0x85 = some (.setDdramAddress 0x05) ∧
    decodeTableWord 8 0xCF = some (.setDdramAddress 0x4F) ∧ decodeTableWord 8 0xFF = some (.setDdramAddress 0x7F) := by
  decide

/-- No two rows of the opcode table share a word. -/
theorem test_rows_do_not_overlap :
    requestRows.Pairwise (fun a b => a.1 &&& b.1 &&& (a.2 ^^^ b.2) ≠ 0) ∧
    commandRows.Pairwise (fun a b => a.1 &&& b.1 &&& (a.2 ^^^ b.2) ≠ 0) := by decide

/-! ## States the tests start from -/

/-- A port with `v` in every storage register. -/
def filledPort (v : Word) : Port := ⟨v, v, v, v, v, v, v, v⟩

def withPort (p : PortIx) (q : Port) (s : State) : State := { s with ports := putPort s.ports p q }

def withOdata (p : PortIx) (v : Word) (s : State) : State := withPort p { filledPort 0 with odata := v } s

/-- The start of §5. -/
def beforeInit : State :=
  withPort 1 ⟨0x00000280, 0x000000FF, 0x0000C0C0, 0x00005500, 0x0000FFFF, 0x00000000, 0x12345678, 0x00000000⟩
    State.reset

/-- The LCD unit after `LCD_INIT` with the configuration of §2, the cursor at `(row, col)`. -/
def sessionAt (row col : Byte) : Lpd := ⟨Cfg.example3.linemap, 2, 16, row, col, true, false, true, true⟩

/-- After `LCD_INIT` of §5 with the cursor at `(row, col)` and the given `ODATA[1]`. -/
def session (row col : Byte) (odata : Word) : State :=
  { withPort 1 ⟨0x00005595, 0x00000008, 0x000000C0, 0x00000000, odata, 0x00000000, 0x12345678, 0x00000000⟩
      State.reset with lpd := sessionAt row col }

/-- `LCD_INIT` done, nothing sent since. -/
def ready : State := session 0 0 0x0000FF18

def nextOf (o : Host.Outcome State Fault Refusal) : Option State :=
  match o with
  | .next t => some t
  | .fault _ => none
  | .refused _ => none

def refusalOf (o : Host.Outcome State Fault Refusal) : Option Refusal :=
  match o with
  | .next _ => none
  | .fault _ => none
  | .refused r => some r

def completes (o : Host.Outcome State Fault Refusal) : Bool := (nextOf o).isSome

/-! ## Port Register Model -/

/-- V5: pin 7, the last field of `AFL`; arbitrary neighbours preserved. -/
theorem test_configure_v5 :
    (nextOf (exec (.gpioConfigure (some ⟨0, 7, 0b10, 1, 0b01, 0b10, 0xF⟩))
      (withPort 0 (filledPort 0x12345678) State.reset))).map (·.trace) =
    some [ .wr 0 .mode 0x12341678, .wr 0 .mode 0x12349678, .wr 0 .otype 0x12345678, .wr 0 .otype 0x123456F8,
           .wr 0 .speed 0x12341678, .wr 0 .speed 0x12345678, .wr 0 .pull 0x12341678, .wr 0 .pull 0x12349678,
           .wr 0 .afl 0x02345678, .wr 0 .afl 0xF2345678 ] := by decide

/-- V8: pin 15, the top field of every register. -/
theorem test_configure_v8 :
    (nextOf (exec (.gpioConfigure (some ⟨0, 15, 0b10, 1, 0b11, 0b10, 0xF⟩)) State.reset)).map (port · 0) =
    some ⟨0x80000000, 0x00008000, 0xC0000000, 0x80000000, 0, 0, 0, 0xF0000000⟩ := by decide

/-- W1. -/
theorem test_write_w1 :
    (nextOf (exec (.gpioWrite 0 0 true) (withOdata 0 0xABCD1234 State.reset))).map
      (fun t => ((port t 0).odata, t.trace)) = some (0xABCD1235, [.wr 0 .bsr 0x00000001]) := by decide

/-- W2: the reset bit of pin 15 is bit 31 of the word. -/
theorem test_write_w2 :
    (nextOf (exec (.gpioWrite 0 15 false) (withOdata 0 0xABCD1235 State.reset))).map
      (fun t => ((port t 0).odata, t.trace)) = some (0xABCD1235, [.wr 0 .bsr 0x80000000]) := by decide

/-- W7: set wins over reset. -/
theorem test_bsr_w7 : (port (regWrite 0 .bsr 0x00300011 (withOdata 0 0x000000F0 State.reset)) 0).odata = 0x000000D1 := by
  decide

/-- G1, first and second reading. -/
theorem test_read_g1 :
    (nextOf (exec (.gpioRead 2 15) { State.reset with pads := [0x8001] })).map (fun t => (t.resp, t.trace)) =
      some (⟨.ok, true⟩, [.rdi 2 0x8001]) ∧
    (nextOf (exec (.gpioRead 2 1) { State.reset with pads := [0x8001] })).map (·.resp) = some ⟨.ok, false⟩ := by decide

/-- G2: the read is not tied to `ODATA`. -/
theorem test_read_g2 :
    (nextOf (exec (.gpioRead 0 5) { withOdata 0 0x0000FFFF State.reset with pads := [0x0000] })).map
      (fun t => (t.resp, (port t 0).odata)) = some (⟨.ok, false⟩, 0x0000FFFF) := by decide

/-- T1, first toggle. -/
theorem test_toggle_t1 :
    (nextOf (exec (.gpioToggle 0 2) (withOdata 0 0x00000005 State.reset))).map
      (fun t => ((port t 0).odata, t.trace)) = some (0x00000001, [.wr 0 .odata 0x00000001]) := by decide

/-- T2, first toggle: all 32 bits written back. -/
theorem test_toggle_t2 :
    (nextOf (exec (.gpioToggle 0 15) (withOdata 0 0xABCD1234 State.reset))).map (·.trace) =
      some [.wr 0 .odata 0xABCD9234] := by decide

/-! ## The display bus -/

/-- M1: `SendNibble(0x0)` from `ODATA[1] = 0`. -/
theorem test_nibble_m1 :
    nibbleEvents Cfg.example3 Cfg.example3.linemap 0x0 =
      [ .wr 1 .bsr 0x00100000, .wr 1 .bsr 0x00200000, .wr 1 .bsr 0x00400000, .wr 1 .bsr 0x00800000,
        .wr 1 .bsr 0x00000004, .wait 1, .wr 1 .bsr 0x00040000, .wait 40 ] := by decide

/-- M3: `SendNibble(0x5)`, and M10: the high nibble of a byte goes first. -/
theorem test_nibble_m3_byte_m10 :
    (sendNibble 0x5 { State.reset with lpd := sessionAt 0 0 }).trace =
      [ .wr 1 .bsr 0x00000010, .wr 1 .bsr 0x00200000, .wr 1 .bsr 0x00000040, .wr 1 .bsr 0x00800000,
        .wr 1 .bsr 0x00000004, .wait 1, .wr 1 .bsr 0x00040000, .wait 40 ] ∧
    (sendByte 0x48 { State.reset with lpd := sessionAt 0 0 }).trace =
      nibbleEvents Cfg.example3 Cfg.example3.linemap 0x4 ++ nibbleEvents Cfg.example3 Cfg.example3.linemap 0x8 := by
  decide

/-! ## LCD operations -/

/-- §5, the registers after the operation. -/
theorem test_init_registers :
    (nextOf (exec .lcdInit beforeInit)).map (fun t => (port t 1, t.lpd, t.resp, t.seq)) =
    some (⟨0x00005595, 0x00000008, 0x000000C0, 0x00000000, 0x0000FF18, 0x00000000, 0x12345678, 0x00000000⟩,
          sessionAt 0 0, ⟨.ok, false⟩, .idle) := by decide +kernel

/-- §5: the counts, the sum of the waits, events 56 to 73 of the trace, and the latched nibbles with the transient of event
3. -/
theorem test_init_trace :
    (nextOf (exec .lcdInit beforeInit)).map (fun t =>
      (t.trace.length, waitTime t.trace, (t.trace.drop 55).take 18,
       (latches Cfg.example3.linemap beforeInit.ports t.trace).map (·.nibble))) =
    some (167, 46212,
      [ .wr 1 .mode 0x00001595, .wr 1 .mode 0x00005595, .wr 1 .otype 0x00000008, .wr 1 .otype 0x00000008,
        .wr 1 .speed 0x000000C0, .wr 1 .speed 0x000000C0, .wr 1 .pull 0x00000000, .wr 1 .pull 0x00000000,
        .wait 40000, .wr 1 .bsr 0x00000010, .wr 1 .bsr 0x00000020, .wr 1 .bsr 0x00400000, .wr 1 .bsr 0x00800000,
        .wr 1 .bsr 0x00000004, .wait 1, .wr 1 .bsr 0x00040000, .wait 40, .wait 4100 ],
      [0xF, 3, 3, 3, 2, 2, 8, 0, 0xC, 0, 6, 0, 1]) := by decide +kernel

/-- P4 step 7: `LCD_CLEAR`. -/
theorem test_clear :
    (nextOf (exec .lcdClear (session 1 15 0x0000FFF8))).map (fun t =>
      ((port t 1).odata, t.lpd, (t.trace.length, t.trace.getLast?))) =
    some (0x0000FF18, sessionAt 0 0, (18, some (.wait 1520))) := by decide

/-- P4 step 8: `LCD_HOME`. -/
theorem test_home :
    (nextOf (exec .lcdHome (session 1 7 0x0000FF18))).map (fun t =>
      ((port t 1).odata, t.lpd, (t.trace.length, t.trace.getLast?))) =
    some (0x0000FF28, sessionAt 0 0, (18, some (.wait 1520))) := by decide

/-- P4 step 1 (E5): `LCD_SET_CURSOR 1, 0` sends `0xC0`, event by event. -/
theorem test_set_cursor_in_range :
    (nextOf (exec (.lcdSetCursor 1 0) (session 0 2 0x0000FF99))).map (fun t => ((port t 1).odata, t.lpd, t.trace)) =
    some (0x0000FF08, sessionAt 1 0,
      [ .wr 1 .bsr 0x00010000,
        .wr 1 .bsr 0x00100000, .wr 1 .bsr 0x00200000, .wr 1 .bsr 0x00000040, .wr 1 .bsr 0x00000080,
        .wr 1 .bsr 0x00000004, .wait 1, .wr 1 .bsr 0x00040000, .wait 40,
        .wr 1 .bsr 0x00100000, .wr 1 .bsr 0x00200000, .wr 1 .bsr 0x00400000, .wr 1 .bsr 0x00800000,
        .wr 1 .bsr 0x00000004, .wait 1, .wr 1 .bsr 0x00040000, .wait 40 ]) := by decide

/-- L7, L8: the first row and the first column out of range. -/
theorem test_set_cursor_out_of_range :
    (nextOf (exec (.lcdSetCursor 2 0) (session 0 5 0x0000FF58))).map (fun t => (t.resp, t.lpd, t.trace)) =
      some (⟨.noEffect, false⟩, sessionAt 0 5, []) ∧
    (nextOf (exec (.lcdSetCursor 0 16) (session 0 5 0x0000FF58))).map (fun t => (t.resp, t.lpd, t.trace)) =
      some (⟨.noEffect, false⟩, sessionAt 0 5, []) := by decide

/-- P4 step 2: `LCD_PRINT_CHAR 0x21`. -/
theorem test_print_char :
    (nextOf (exec (.lcdPrintChar 0x21) (session 1 0 0x0000FF08))).map (fun t => ((port t 1).odata, t.lpd)) =
    some (0x0000FF19, sessionAt 1 1) := by decide

/-- L12 and L13: the tracked column wraps modulo 256 both ways. -/
theorem test_print_char_wraps :
    (nextOf (exec (.lcdPrintChar 0x41) (session 0 255 0))).map (·.lpd.curCol) = some 0 ∧
    (nextOf (exec (.lcdPrintChar 0x41) { session 0 0 0 with lpd := { sessionAt 0 0 with emId := false } })).map
      (·.lpd.curCol) = some 255 := by decide

/-- P3 step 2 (E6): the four latched nibbles of `"HI"`, and the lines after it. -/
theorem test_print_string :
    (nextOf (exec (.lcdPrintString [0x48, 0x49]) (session 0 0 0x0000FF18))).map (fun t =>
      ((port t 1).odata, t.lpd,
       (t.trace.length, latches Cfg.example3.linemap (session 0 0 0x0000FF18).ports t.trace))) =
    some (0x0000FF99, sessionAt 0 2,
      (34, [⟨true, false, 0x4⟩, ⟨true, false, 0x8⟩, ⟨true, false, 0x4⟩, ⟨true, false, 0x9⟩])) := by decide +kernel

/-- L14: the empty string. -/
theorem test_print_string_empty :
    (nextOf (exec (.lcdPrintString []) (session 0 3 0))).map (fun t => (t.lpd, t.trace, t.resp)) =
    some (sessionAt 0 3, [], ⟨.ok, false⟩) := by decide

/-! ## LCD instruction bytes (R78): the controller latches the two nibbles of the byte with register-select Low -/

/-- The nibbles an instruction byte is latched as. -/
def latchedNibbles (i : Instr) : Option (List (Level × Nibble)) :=
  (nextOf (exec i (session 0 0 0x00000001))).map fun t =>
    (latches Cfg.example3.linemap (session 0 0 0x00000001).ports t.trace).map fun l => (l.rs, l.nibble)

theorem test_clearDisplay : latchedNibbles .clearDisplay = some [(false, 0x0), (false, 0x1)] := by decide
theorem test_returnHome : latchedNibbles (.returnHome 0) = some [(false, 0x0), (false, 0x2)] := by decide
/-- R59, R67: the `x` bits are sent as 0. -/
theorem test_returnHome_x : latchedNibbles (.returnHome 1) = some [(false, 0x0), (false, 0x2)] := by decide
theorem test_cursorDisplayShift_x :
    latchedNibbles (.cursorDisplayShift 1 0 3) = some [(false, 0x1), (false, 0x8)] := by decide
theorem test_functionSet_x : latchedNibbles (.functionSet 0 1 0 3) = some [(false, 0x2), (false, 0x8)] := by decide
theorem test_entryModeSet : latchedNibbles (.entryModeSet 1 0) = some [(false, 0x0), (false, 0x6)] := by decide
theorem test_displayControl : latchedNibbles (.displayControl 1 0 0) = some [(false, 0x0), (false, 0xC)] := by decide
theorem test_cursorDisplayShift :
    latchedNibbles (.cursorDisplayShift 1 1 0) = some [(false, 0x1), (false, 0xC)] := by decide
theorem test_functionSet : latchedNibbles (.functionSet 0 1 0 0) = some [(false, 0x2), (false, 0x8)] := by decide
theorem test_setCgramAddress : latchedNibbles (.setCgramAddress 0x3F) = some [(false, 0x7), (false, 0xF)] := by decide
theorem test_setDdramAddress : latchedNibbles (.setDdramAddress 0x4F) = some [(false, 0xC), (false, 0xF)] := by decide

/-! ## Refusals -/

/-- V12, V13, V14 and V15: the requests of `GPIO_CONFIGURE` that are refused. -/
theorem test_refused_configure :
    refusalOf (step { State.reset with inbox := [.request 0x100A3000] }) = some .reservedPullCode ∧
    refusalOf (step { State.reset with inbox := [.request 0x130A0000] }) = some .invalidPortHandle ∧
    refusalOf (step { State.reset with inbox := [.request 0x100A0001] }) = some .reservedRequest ∧
    refusalOf (step { State.reset with inbox := [.request 0x100A0000], clken := 0xFFFE }) =
      some .portClockDisabled := by decide

/-- L17, L18 and L20. -/
theorem test_refused_lcd :
    refusalOf (exec .lcdClear State.reset) = some .lcdNotInitialised ∧
    refusalOf (exec .lcdInit { State.reset with clken := 0xFFFD }) = some .portClockDisabled ∧
    refusalOf (exec .lcdHome { session 0 0 0 with clken := 0xFFFD }) = some .portClockDisabled ∧
    refusalOf (step { State.reset with inbox := [.request 0xE0000000] }) = some .reservedRequest := by decide

/-- A read of `BSR` (R40). -/
theorem test_refused_read_of_bsr : regRead 0 .bsr State.reset = .error .readOfWriteOnlyRegister := rfl

/-! ## A step runs what is presented -/

/-- P2 step 2 presented as its request word; the queue behind it is left. -/
theorem test_step_request :
    (nextOf (step { withOdata 2 0x0000A5A5 State.reset with
      inbox := [.request 0x22D80000, .request 0x22D00000] })).map (fun t => ((port t 2).odata, t.inbox)) =
    some (0x0000A5A5, [.request 0x22D00000]) := by decide

/-- R76, R90: the second small step of a nibble of an operation in progress drives `D1` (M3). -/
theorem test_step_small :
    (nextOf (step (accepted .lcdInit [.nibble 0x5, .wait 4100] { State.reset with lpd := sessionAt 0 0 }))).map
      (fun t => (t.trace, (nextOf (step t)).map (·.trace))) =
    some ([.wr 1 .bsr 0x00000010], some [.wr 1 .bsr 0x00000010, .wr 1 .bsr 0x00200000]) := by decide

/-- R116: a reset in the middle of an operation. -/
theorem test_step_reset_while_busy :
    (nextOf (step { accepted .lcdInit initSteps ready with inbox := [.world .reset], trace := [.wait 40000] })).map
      (fun t => (t.lpd.initDone, t.seq, t.trace, t.inbox)) = some (false, .idle, [], []) := by decide

/-- A word placed by `withFetchWord` right after reset is what the next step runs. -/
theorem test_withFetchWord :
    (nextOf (step (State.reset.withFetchWord 32 0x20080000))).map (·.trace) = some [.wr 0 .bsr 0x00000001] ∧
    (nextOf (step (State.reset.withFetchWord 8 0x85))).map (·.trace.length) = some 17 := by decide

/-! ## Witnesses: for each obligation with hypotheses, a state and operands that meet all of them -/

/-- What a completing instruction has answered, with the events it appended. -/
theorem answered {i : Instr} {s : State} (h : completes (exec i s) = true) (ht : s.trace = []) :
    ∃ t es, exec i s = .next t ∧ t.trace = s.trace ++ es := by
  unfold completes nextOf at h
  split at h
  · rename_i t heq
    exact ⟨t, t.trace, heq, by simp [ht]⟩
  · simp at h
  · simp at h

theorem stepped {s : State} (h : completes (step s) = true) : ∃ t, step s = .next t := by
  unfold completes nextOf at h
  split at h
  · rename_i t heq; exact ⟨t, heq⟩
  · simp at h
  · simp at h

theorem noReset_ready : NoReset ready := fun rest h => List.cons_ne_nil _ rest h.symm

theorem settled_ready : Settled ready := ⟨rfl, fun _ => by decide⟩

/-- The two line maps' distinctness (R6 clause 5). -/
theorem witness_distinct : ready.cfg.linemap.Distinct ∧ ready.lpd.lmap.Distinct := by decide

theorem witness_DecodeEncodeRoundTrip :
    (Instr.lcdPrintString (List.replicate 65535 0x41#8)).wellFormed = true ∧
    (Instr.lcdPrintString []).wellFormed = true := by
  constructor <;> simp only [Instr.wellFormed, List.length_replicate] <;> decide

theorem witness_RequestWordIsItsEncoding :
    decodeRequest 0xD0002000 [0x48, 0x49, 0x50] = .ok (.lcdPrintString [0x48, 0x49], [0x50]) ∧
    Instr.lcdPrintString [0x48, 0x49] ≠ .gpioConfigure none ∧
    decodeRequest 0x10F7FF00 [] = .ok (.gpioConfigure none, []) := ⟨rfl, by decide, rfl⟩

theorem witness_CommandByteRows : decodeByte 0xC0 = .ok (.setDdramAddress 0x40) := rfl

/-- One state for each clause. -/
theorem witness_StepRunsDecodedInstruction :
    ({ State.reset with inbox := [.request 0x21480000] }.seq = .idle ∧
      decodeRequest 0x21480000 { State.reset with inbox := [.request 0x21480000] }.stream =
        .ok (.gpioWrite 1 4 true, [])) ∧
    (NoReset (accepted .lcdInit [.instructionByte 0x28#8] ready) ∧
      (accepted .lcdInit [.instructionByte 0x28#8] ready).seq = .busy .lcdInit [.instructionByte 0x28#8] ∧
      decodeByte 0x28 = .ok (.functionSet 0 1 0 0)) ∧
    (NoReset (accepted .lcdInit [.nibble 0x3] ready) ∧ (accepted .lcdInit [.nibble 0x3] ready).seq = .busy .lcdInit [.nibble 0x3] ∧
      (∀ b, Action.nibble 0x3 ≠ .instructionByte b) ∧
      ∃ more, smallSteps (accepted .lcdInit [.nibble 0x3] ready) (.nibble 0x3) = .drive .d0 true :: more) ∧
    (State.reset.seq = .idle ∧ State.reset.inbox = []) ∧
    ({ State.reset with inbox := [.request 0xD0002000], stream := [0x48#8] }.seq = .idle ∧
      decodeRequest 0xD0002000 { State.reset with inbox := [.request 0xD0002000], stream := [0x48#8] }.stream =
        .error .incompleteString) ∧
    { accepted .lcdInit initSteps ready with inbox := [.world .reset] }.inbox = [.world .reset] :=
  ⟨⟨rfl, rfl⟩, ⟨noReset_ready, rfl, rfl⟩,
   ⟨noReset_ready, rfl, by simp, ⟨_, rfl⟩⟩, ⟨rfl, rfl⟩, ⟨rfl, rfl⟩, rfl⟩

theorem witness_PlacedWordIsRun :
    decodeTableWord 32 0xD0002000 = some (.lcdPrintString [0, 0]) ∧
    decodeTableWord 8 0x01 = some .clearDisplay ∧
    (accepted .lcdClear clearSteps ready).seq = .busy .lcdClear clearSteps := by decide

theorem witness_ReservedOpcodesStop : isReserved (.reservedF 0xFFFFFFF) = true := rfl

/-- An idle block to which `w` is presented. -/
def presented (w : Word) : State := { State.reset with inbox := [.request w] }

/-- One word for each clause, the port handle at the boundary of `NPORTS = 3`. -/
theorem witness_IllegalRequestsRefused :
    (∀ w, (presented w).seq = .idle ∧ (presented w).inbox = [.request w]) ∧
    reqOpc 0xF0000000 ∈ [0x0#4, 0x5#4, 0x6#4, 0x7#4, 0xE#4, 0xF#4] ∧
    (∀ row ∈ requestRows, 0x100A0001#32 &&& row.1 ≠ row.2) ∧
    (0x130A0000#32 &&& 0xF00000FF#32 = 0x10000000#32 ∧ reqBit19 0x130A0000 = true ∧
      (presented 0x130A0000).cfg.nports ≤ (reqPort 0x130A0000).toNat) ∧
    (0x120A3000#32 &&& 0xF00000FF#32 = 0x10000000#32 ∧ reqBit19 0x120A3000 = true ∧
      (reqPort 0x120A3000).toNat < (presented 0x120A3000).cfg.nports ∧ (reqDescriptor 0x120A3000).pull = 0b11#2) ∧
    (0x33000000#32 &&& 0xF00FFFFF#32 = 0x30000000#32 ∧
      (presented 0x33000000).cfg.nports ≤ (reqPort 0x33000000).toNat) :=
  have noRow : requestRows.all (fun row => decide (0x100A0001#32 &&& row.1 ≠ row.2)) = true := by decide
  ⟨fun _ => ⟨rfl, rfl⟩, by decide, fun row h => of_decide_eq_true (List.all_eq_true.mp noRow row h), by decide,
   by decide, by decide⟩

theorem witness_BusyBlockTakesNoRequest :
    isOperation (.gpioConfigure none) = true ∧ isReserved (.reserved0 0) = true ∧
    (accepted .lcdClear clearSteps ready).seq ≠ .idle := by decide

theorem witness_RegReadEffect :
    Reg.odata ≠ .idata ∧ Reg.odata ≠ .bsr ∧ { State.reset with pads := [0x8001#16] }.pads = [0x8001#16] ∧
    State.reset.pads = [] := by decide

theorem witness_RegWriteEffect :
    (∃ t, regWrite 2 .bsr 0x80008000 State.reset = t) ∧ Reg.lock ≠ .idata ∧ Reg.lock ≠ .bsr ∧ (0 : PortIx) ≠ 2 :=
  ⟨⟨_, rfl⟩, by decide, by decide, by decide⟩

/-- The top field of two bits and the top field of four, and another value of the register that agrees outside. -/
theorem witness_FieldWriteLaw :
    (port ready 1).stored .mode = some 0x00005595 ∧ 30 + 2 ≤ 32 ∧ (3#32).toNat < 2 ^ 2 ∧
    (port ready 1).stored .afl = some 0x12345678 ∧ 28 + 4 ≤ 32 ∧ (15#32).toNat < 2 ^ 4 ∧
    (∀ i < 32, (i < 30 ∨ 30 + 2 ≤ i) → (0x80005595#32).getLsbD i = (0x00005595#32).getLsbD i) ∧
    (port (withPort 1 (filledPort 0x80005595) State.reset) 1).stored .mode = some 0x80005595 ∧
    (fieldWrite 1 .mode 30 2 3 (withPort 1 (filledPort 0x80005595) State.reset)).toOption.isSome = true := by decide

theorem witness_BsrWordsHaveOneBit :
    ∃ t es, exec (.gpioWrite 0 15 false) ready = .next t ∧ t.trace = ready.trace ++ es ∧
      Event.wr 0 .bsr 0x80000000 ∈ es :=
  ⟨_, [.wr 0 .bsr 0x80000000], rfl, rfl, by simp⟩

theorem witness_RegisterMap :
    Cfg.example3.portBase[(2 : PortIx).toNat]? = some 0x800 ∧ regAddress Cfg.example3 2 .afh = some 0x824 ∧
    (7 : PinIx).toNat ≤ 7 ∧ 8 ≤ (8 : PinIx).toNat := by decide

theorem witness_ConfigureAbsentIsNoOp : { State.reset with clken := 0 }.seq = .idle := rfl

/-- The last port that exists. -/
theorem witness_ConfigureResult :
    PortReady State.reset (⟨2, 13, 0b10, 1, 0b11, 0b10, 15⟩ : Descriptor).port ∧
    (⟨2, 13, 0b10, 1, 0b11, 0b10, 15⟩ : Descriptor).pull ≠ 0b11#2 := by decide

/-- Pin 7, pin 8, and a mode that writes no selector. -/
theorem witness_ConfigureWritesFields :
    (∃ t es, exec (.gpioConfigure (some ⟨0, 7, 0b10, 1, 0b01, 0b10, 15⟩)) State.reset = .next t ∧
      t.trace = State.reset.trace ++ es) ∧
    (∃ t es, exec (.gpioConfigure (some ⟨0, 8, 0b10, 0, 0b00, 0b00, 3⟩)) State.reset = .next t ∧
      t.trace = State.reset.trace ++ es) ∧
    (∃ t es, exec (.gpioConfigure (some ⟨0, 15, 0b11, 0, 0b00, 0b00, 0⟩)) State.reset = .next t ∧
      t.trace = State.reset.trace ++ es) :=
  ⟨answered (by decide) rfl, answered (by decide) rfl, answered (by decide) rfl⟩

theorem witness_ConfigureTwiceIsOnce :
    PortReady State.reset (⟨0, 3, 0b10, 0, 0b10, 0b00, 7⟩ : Descriptor).port ∧
    (⟨0, 3, 0b10, 0, 0b10, 0b00, 7⟩ : Descriptor).pull ≠ 0b11#2 := by decide

/-- The first port that does not exist, the reserved pull code, a port without its clock. -/
theorem witness_PrmRefusals :
    State.reset.seq = .idle ∧ State.reset.cfg.nports ≤ (3 : PortIx).toNat ∧
    (⟨2, 0, 0, 0, 0, 0b11, 0⟩ : Descriptor).port.toNat < State.reset.cfg.nports ∧
    (⟨2, 0, 0, 0, 0, 0b11, 0⟩ : Descriptor).pull = 0b11#2 ∧
    { State.reset with clken := 0xFFFB }.clken.getLsbD (2 : PortIx).toNat = false ∧
    (⟨2, 0, 0, 0, 0, 0b10, 0⟩ : Descriptor).pull ≠ 0b11#2 := by decide

theorem witness_GpioWriteResult : PortReady State.reset 0 ∧ PortReady State.reset 2 := by decide

theorem witness_WriteHighThenLow : PortReady (withOdata 0 0x0000FFFF State.reset) 0 := by decide

theorem witness_GpioReadResult :
    PortReady { State.reset with pads := [0x8001#16] } 2 ∧ { State.reset with pads := [0x8001#16] }.pads = [0x8001#16] ∧
    PortReady State.reset 2 ∧ State.reset.pads = [] := by decide

theorem witness_GpioToggleResult : PortReady (withOdata 0 0xABCD1234 State.reset) 0 := by decide

theorem witness_ToggleTwiceRestores : PortReady (withOdata 0 0x00000005 State.reset) 0 := by decide

theorem witness_PrmFrame :
    (∃ t es, exec (.gpioConfigure none) ready = .next t ∧ t.trace = ready.trace ++ es) ∧
    (∃ t es, exec (.gpioToggle 2 13) ready = .next t ∧ t.trace = ready.trace ++ es) ∧
    prmPort (.gpioToggle 2 13) = some 2 ∧ (1 : PortIx) ≠ 2 :=
  ⟨answered (by decide) rfl, answered (by decide) rfl, rfl, by decide⟩

/-- One state for each clause. -/
theorem witness_LcdAcceptance :
    isLcdOperation (.lcdPrintString []) = true ∧ (accepted .lcdInit [] ready).seq ≠ .idle ∧
    (State.reset.seq = .idle ∧ State.reset.lpd.initDone = false) ∧
    (∃ r ∈ Role.all, { ready with clken := 0xFFFD }.clken.getLsbD (ready.lpd.lmap.pin r).port.toNat = false) ∧
    LcdReady ready := by decide

/-- A line on the first port that does not exist, a line on a port without its clock, and neither. -/
theorem witness_LcdInitAcceptance :
    (∃ r ∈ Role.all, { beforeInit with cfg := { Cfg.example3 with nports := 1 } }.cfg.nports ≤
      ({ beforeInit with cfg := { Cfg.example3 with nports := 1 } }.cfg.linemap.pin r).port.toNat) ∧
    (∀ r ∈ Role.all, (beforeInit.cfg.linemap.pin r).port.toNat < beforeInit.cfg.nports) ∧
    (∃ r ∈ Role.all,
      { beforeInit with clken := 0xFFFD }.clken.getLsbD (beforeInit.cfg.linemap.pin r).port.toNat = false) ∧
    beforeInit.seq = .idle ∧ LinesReady beforeInit beforeInit.cfg.linemap := by decide

theorem witness_LcdClearResult : LcdReady ready := by decide
theorem witness_LcdHomeResult : LcdReady ready := by decide

/-- The largest position of the 2 by 16 display. -/
theorem witness_SetCursorInRange :
    LcdReady ready ∧ (1 : Byte).toNat < ready.lpd.rows.toNat ∧ (15 : Byte).toNat < ready.lpd.cols.toNat := by decide

/-- The example configuration is well-formed (R6), and its largest position is addressed `0x4F` (L5). -/
theorem witness_SetCursorAddressIsWhole :
    ready.cfg.WellFormed ∧ Settled ready ∧ LcdReady ready ∧ (1 : Byte).toNat < ready.lpd.rows.toNat ∧
    (15 : Byte).toNat < ready.lpd.cols.toNat := by
  refine ⟨⟨by decide, by decide, by decide, by decide, by decide, by decide, ?_, by decide, by decide, by decide⟩,
    settled_ready, by decide⟩
  intro r hr
  have hr' : r < 2 := hr
  match r, hr' with
  | 0, _ => decide
  | 1, _ => decide

/-- The first row and the first column out of range. -/
theorem witness_SetCursorOutOfRange :
    LcdReady ready ∧ ready.lpd.rows.toNat ≤ (2 : Byte).toNat ∧ ready.lpd.cols.toNat ≤ (16 : Byte).toNat := by decide

/-- Both directions of the tracked cursor. -/
theorem witness_PrintCharResult :
    LcdReady ready ∧ LcdReady { ready with lpd := { ready.lpd with emId := false } } := by decide

theorem witness_PrintStringResult :
    LcdReady ready ∧ LcdReady { ready with lpd := { ready.lpd with emId := false } } := by decide

theorem witness_PrintStringIsItsCharacters : LcdReady ready := by decide

theorem witness_LcdInitResult : InitReady beforeInit ∧ InitReady ready := by decide

theorem witness_LcdInitAppends :
    ∃ t es, exec .lcdInit beforeInit = .next t ∧ t.trace = beforeInit.trace ++ es :=
  answered (by decide +kernel) rfl

/-- With a pin the LCD unit does not own. -/
theorem witness_LcdInitPins :
    (∃ t es, exec .lcdInit beforeInit = .next t ∧ t.trace = beforeInit.trace ++ es) ∧
    ¬ ∃ r ∈ Role.all, beforeInit.cfg.linemap.pin r = ⟨1, 3⟩ :=
  ⟨answered (by decide +kernel) rfl, by decide⟩

theorem witness_LcdInitLines :
    beforeInit.cfg.linemap.Distinct ∧
    ∃ t es, exec .lcdInit beforeInit = .next t ∧ t.trace = beforeInit.trace ++ es :=
  ⟨by decide, answered (by decide +kernel) rfl⟩

theorem witness_CommandByteTransmitted :
    encode (.setDdramAddress 0x7F) = .command 0xFF ∧ encode (.returnHome 1) = .command 0x03 ∧
    encode (.cursorDisplayShift 1 1 3) = .command 0x1F ∧ encode (.functionSet 1 1 1 3) = .command 0x3F ∧
    LinesReady ready ready.lpd.lmap ∧
    ¬ LinesReady { ready with clken := 0xFFFD } ready.lpd.lmap := by decide

theorem witness_LcdFrame :
    (isLcdOperation (.lcdPrintChar 0x41) = true ∧
      ∃ t es, exec (.lcdPrintChar 0x41) ready = .next t ∧ t.trace = ready.trace ++ es) ∧
    (isCommandByte .clearDisplay = true ∧
      ∃ t es, exec .clearDisplay ready = .next t ∧ t.trace = ready.trace ++ es) ∧
    ¬ ∃ r ∈ Role.all, ready.lpd.lmap.pin r = ⟨1, 3⟩ :=
  ⟨⟨rfl, answered (by decide) rfl⟩, ⟨rfl, answered (by decide) rfl⟩, by decide⟩

theorem witness_NeverSent :
    (Action.command 0x02 ∈ stepsOf .lcdHome ready ∧ decodeByte 0x02 = .ok (.returnHome 0)) ∧
    (Action.command 0x28 ∈ stepsOf .lcdInit ready ∧ decodeByte 0x28 = .ok (.functionSet 0 1 0 0)) ∧
    Action.command 0x85 ∈ stepsOf (.lcdSetCursor 0 5) ready ∧ Instr.lcdSetCursor 0 5 ≠ .lcdInit ∧
    isLcdOperation (.lcdSetCursor 0 5) = true ∧
    ∃ t es, exec (.lcdSetCursor 0 5) ready = .next t ∧ t.trace = ready.trace ++ es :=
  ⟨by decide, by decide, by decide, by decide, rfl, answered (by decide) rfl⟩

theorem witness_StepKeepsSettled :
    Settled { ready with inbox := [.request 0x90000000] } ∧
    ∃ t, step { ready with inbox := [.request 0x90000000] } = .next t :=
  ⟨⟨rfl, fun _ => by decide⟩, stepped (by decide)⟩

/-- Another instruction completes where the trace does not matter. -/
theorem completed {i : Instr} {s : State} (h : completes (exec i s) = true) : ∃ t, exec i s = .next t := by
  unfold completes nextOf at h
  split at h
  · rename_i t heq; exact ⟨t, heq⟩
  · simp at h
  · simp at h

/-- `ready` with the last command of `LCD_INIT` in its trace. -/
def quiet : State :=
  { ready with trace := commandEvents Cfg.example3 Cfg.example3.linemap 0x01 ++ [.wait 1520] }

theorem busQuiet_quiet : BusQuiet quiet := fun _ =>
  ⟨⟨by decide, by decide, by decide⟩,
   ⟨[], false, byteEvents Cfg.example3 Cfg.example3.linemap 0x01 ++ [.wait 1520], rfl, by decide, by decide⟩,
   ⟨driveEvent Cfg.example3.linemap .rs false :: nibbleEvents Cfg.example3 Cfg.example3.linemap 0x0, 0x1, [.wait 1520], rfl,
    by decide, by decide⟩⟩

/-- A PRM operation beside the LCD pins, and an LCD operation. -/
theorem witness_OperationsKeepBusQuiet :
    isOperation (.gpioToggle 1 3) = true ∧ isOperation (.lcdPrintChar 0x41) = true ∧ SessionLatched quiet ∧
    quiet.cfg.linemap.Distinct ∧ BusQuiet quiet ∧ keepsOffLcdPins quiet.lpd.lmap (.gpioToggle 1 3) ∧
    (∃ t, exec (.gpioToggle 1 3) quiet = .next t) ∧ (∃ t, exec (.lcdPrintChar 0x41) quiet = .next t) :=
  ⟨rfl, rfl, settled_ready.2, by decide, busQuiet_quiet,
   show ¬ ∃ r ∈ Role.all, quiet.lpd.lmap.pin r = ⟨1, 3⟩ by decide, completed (by decide), completed (by decide)⟩

/-- The point of `LCD_PRINT_CHAR` after its first nibble, and the point of `LCD_INIT` after its last. -/
theorem witness_BusHoldsInsideOperations :
    (isLcdOperation (.lcdPrintChar 0x41) = true ∧ quiet.lpd.initDone = true ∧ quiet.lpd.lmap.Distinct ∧ BusQuiet quiet ∧
      ∃ left t, (stepsOf (.lcdPrintChar 0x41) quiet).flatMap transferSteps =
          [.drive .rs true, .nibble (highNibble 0x41)] ++ left ∧
        runActions [.drive .rs true, .nibble (highNibble 0x41)]
          (accepted (.lcdPrintChar 0x41) (stepsOf (.lcdPrintChar 0x41) quiet) quiet) = .ok t) ∧
    (beforeInit.cfg.linemap.Distinct ∧ 15 ≤ ((stepsOf .lcdInit beforeInit).flatMap transferSteps).length ∧
      Action.nibble 0x3 ∈ (stepsOf .lcdInit beforeInit).flatMap transferSteps ∧
      (runActions ((stepsOf .lcdInit beforeInit).flatMap transferSteps)
        (accepted .lcdInit (stepsOf .lcdInit beforeInit) beforeInit)).toOption.isSome = true) :=
  ⟨⟨rfl, rfl, by decide, busQuiet_quiet, _, _, rfl, rfl⟩, by decide, by decide, by decide, by decide +kernel⟩

theorem witness_LatchedNibblesAreTransferView :
    isLcdOperation .lcdClear = true ∧ ready.lpd.lmap.Distinct ∧ lineLevel ready.ports ready.lpd.lmap .e = false ∧
    lineLevel ready.ports ready.lpd.lmap .rw = false ∧
    ∃ t es, exec .lcdClear ready = .next t ∧ t.trace = ready.trace ++ es :=
  ⟨rfl, by decide, by decide, by decide, answered (by decide) rfl⟩

theorem witness_LatchedNibblesOfInit :
    beforeInit.cfg.linemap.Distinct ∧
    ∃ t es, exec .lcdInit beforeInit = .next t ∧ t.trace = beforeInit.trace ++ es :=
  ⟨by decide, answered (by decide +kernel) rfl⟩

/-- An `LCD_INIT` and after it a PRM operation beside the LCD pins and a character. -/
theorem witness_LatchedNibblesOfSession :
    beforeInit.cfg.linemap.Distinct ∧
    (∀ i ∈ [Instr.gpioToggle 1 3, .lcdPrintChar 0x41],
      isOperation i = true ∧ i ≠ .lcdInit ∧ keepsOffLcdPins beforeInit.cfg.linemap i) ∧
    ((nextOf (exec .lcdInit beforeInit)).bind fun t =>
      nextOf (runAll [.gpioToggle 1 3, .lcdPrintChar 0x41] t)).isSome = true := by
  refine ⟨by decide, ?_, by decide +kernel⟩
  intro i hi
  simp only [List.mem_cons, List.not_mem_nil, or_false] at hi
  rcases hi with rfl | rfl
  · exact ⟨rfl, by simp, show ¬ ∃ r ∈ Role.all, beforeInit.cfg.linemap.pin r = ⟨1, 3⟩ by decide⟩
  · exact ⟨rfl, by simp, trivial⟩

/-- One state for each clause. -/
theorem witness_SmallStepsGiveBigStep :
    (isOperation (.lcdSetCursor 1 15) = true ∧ NoReset ready ∧
      ∃ t es, exec (.lcdSetCursor 1 15) ready = .next t ∧ t.trace = ready.trace ++ es) ∧
    (NoReset (accepted .lcdInit [.command 0x28] ready) ∧ isCommandByte (.functionSet 0 1 0 3) = true ∧
      busByte (.functionSet 0 1 0 3) = 0x28 ∧
      (accepted .lcdInit [.command 0x28] ready).seq = .busy .lcdInit [.command 0x28] ∧
      LinesReady (accepted .lcdInit [.command 0x28] ready) ready.lpd.lmap) ∧
    (NoReset (accepted .lcdInit [.nibble 0x3] ready) ∧ (∀ b, Action.nibble 0x3 ≠ .instructionByte b) ∧
      ∃ t, step (accepted .lcdInit [.nibble 0x3] ready) = .next t) :=
  ⟨⟨rfl, noReset_ready, answered (by decide) rfl⟩, ⟨noReset_ready, by decide⟩,
   noReset_ready, by simp, stepped (by decide)⟩

/-- An idle block with a request, and a busy one; neither is about to be reset. -/
theorem witness_ConfigConstantTraceGrows :
    (∃ t, step { ready with inbox := [.request 0x40200000] } = .next t) ∧
    (∃ t, step (accepted .lcdClear clearSteps ready) = .next t) ∧
    ∀ rest, { ready with inbox := [.request 0x40200000] }.inbox ≠ .world .reset :: rest :=
  ⟨stepped (by decide), stepped (by decide), by simp⟩

theorem witness_LockAndIdataNeverWritten :
    ∃ t es, exec (.gpioConfigure (some ⟨1, 3, 0, 0, 0, 0, 0⟩)) ready = .next t ∧ t.trace = ready.trace ++ es :=
  answered (by decide) rfl

theorem witness_AccessesHaveTheirClock :
    ∃ t es, exec (.gpioWrite 2 0 true) { ready with clken := 0x0004 } = .next t ∧ t.trace = ready.trace ++ es ∧
      Event.wr 2 .bsr 0x00000001 ∈ es :=
  ⟨_, [.wr 2 .bsr 0x00000001], rfl, rfl, by simp⟩

theorem witness_NoFaultAndNamedRefusals : refusalOf (exec .lcdHome State.reset) = some .lcdNotInitialised := by decide

/-- One operation for each clause. -/
theorem witness_ResponseOfCompletedOperation :
    (isOperation (.gpioRead 2 15) = true ∧
      ∃ t es, exec (.gpioRead 2 15) { ready with pads := [0x8001] } = .next t ∧ t.trace = ready.trace ++ es) ∧
    (isOperation (.lcdSetCursor 2 0) = true ∧ ready.lpd.rows.toNat ≤ (2 : Byte).toNat ∧
      ∃ t es, exec (.lcdSetCursor 2 0) ready = .next t ∧ t.trace = ready.trace ++ es) ∧
    (isOperation .lcdClear = true ∧ ∃ t es, exec .lcdClear ready = .next t ∧ t.trace = ready.trace ++ es) :=
  ⟨⟨rfl, answered (by decide) rfl⟩, ⟨rfl, by decide, answered (by decide) rfl⟩, ⟨rfl, answered (by decide) rfl⟩⟩

/-- In range and out of range. -/
theorem witness_Durations :
    isOperation (.lcdSetCursor 1 15) = true ∧
    (∃ t es, exec (.lcdSetCursor 1 15) ready = .next t ∧ t.trace = ready.trace ++ es) ∧
    (∃ t es, exec (.lcdSetCursor 1 16) ready = .next t ∧ t.trace = ready.trace ++ es) :=
  ⟨rfl, answered (by decide) rfl, answered (by decide) rfl⟩

/-- An idle block and a busy one, about to be reset. -/
theorem witness_ResetLeaves :
    { ready with inbox := [.world .reset] }.inbox = [.world .reset] ∧
    { accepted .lcdInit initSteps ready with inbox := [.world .reset] }.inbox = [.world .reset] := ⟨rfl, rfl⟩

/-- One event for each clause. -/
theorem witness_WorldBetweenOperations :
    ready.seq = .idle ∧ (2 : PortIx).toNat < ready.cfg.nports ∧ ready.clken.getLsbD (2 : PortIx).toNat = true ∧
    ready.cfg.nports ≤ (3 : PortIx).toNat ∧
    { ready with clken := 0xFFFB }.clken.getLsbD (2 : PortIx).toNat = false := by decide

end Sys2Proof.Tests
end

/-! PROOFS. What an instruction is as a whole: a request is the acceptance of its checks and its sequence, an LCD
instruction byte is one command transaction (spec/00_scope.md R2; spec/30_encoding.md R50). -/

namespace Sys2Proof.Machine

/-- The acceptance checks of a request, in their order (R57, R68, R82, R93, R107); an LCD instruction byte is no request
and has none. -/
def checksOf (i : Instr) (s : State) : List (Bool × Refusal) :=
  match i with
  | .gpioConfigure none => []
  | .gpioConfigure (some d) => configureChecks s d
  | .gpioWrite p _ _ | .gpioRead p _ | .gpioToggle p _ => portChecks s p
  | .lcdInit => initChecks s
  | .lcdClear | .lcdHome | .lcdSetCursor _ _ | .lcdPrintChar _ | .lcdPrintString _ => lcdChecks s
  | .reserved0 _ | .reserved5 _ | .reserved6 _ | .reserved7 _ | .reservedE _ | .reservedF _ =>
    [(false, .reservedRequest)]
  | .clearDisplay | .returnHome _ | .entryModeSet _ _ | .displayControl _ _ _ | .cursorDisplayShift _ _ _
  | .functionSet _ _ _ _ | .setCgramAddress _ | .setDdramAddress _ => []

theorem exec_request {i : Instr} (h : isCommandByte i = false) (s : State) :
    exec i s = operate i (checksOf i s) (stepsOf i s) s := by
  cases i with
  | gpioConfigure d => cases d <;> rfl
  | clearDisplay | returnHome | entryModeSet | displayControl | cursorDisplayShift | functionSet | setCgramAddress
  | setDdramAddress => simp [isCommandByte] at h
  | _ => rfl

theorem exec_commandByte {i : Instr} (h : isCommandByte i = true) (s : State) :
    exec i s = transmit (busByte i) s := by
  cases i with
  | clearDisplay | returnHome | entryModeSet | displayControl | cursorDisplayShift | functionSet | setCgramAddress
  | setDdramAddress => rfl
  | _ => simp [isCommandByte] at h

/-- An instruction that answers a next state is an accepted request whose sequence ran, or a byte put on the bus. -/
theorem exec_next {i : Instr} {s t : State} (h : exec i s = .next t) :
    (s.seq = .idle ∧ firstRefusal (checksOf i s) = none ∧
      runActions (stepsOf i s) (accepted i (stepsOf i s) s) = .ok t) ∨
    (isCommandByte i = true ∧ LinesReady s s.lpd.lmap ∧ t = after (commandEvents s.cfg s.lpd.lmap (busByte i)) s) := by
  cases hi : isCommandByte i with
  | false =>
    rw [exec_request hi] at h
    exact .inl (operate_next.mp h)
  | true =>
    rw [exec_commandByte hi, transmit_eq] at h
    split at h
    · rename_i hclocked
      exact .inr ⟨rfl, linesClocked_iff.mp hclocked, (Host.Outcome.next.inj h).symm⟩
    · simp at h

end Sys2Proof.Machine

/-! PROOFS. What every step keeps: the configuration, and the trace so far but for a platform reset (spec/00_scope.md R5;
spec/10_state.md R10, R28; spec/70_reset_and_hazards.md R116, R127). -/

namespace Sys2Proof.Machine

/-- `t` is reached from `s` by the block's own doing: the world is as it was, and the trace of `t` is that of `s` with
events appended. -/
def Continues (s t : State) : Prop := sameWorld s t ∧ s.trace <+: t.trace

theorem Continues.refl (s : State) : Continues s s := ⟨⟨rfl, rfl, rfl, rfl⟩, List.prefix_rfl⟩

theorem Continues.trans {s t u : State} (hst : Continues s t) (htu : Continues t u) : Continues s u := by
  obtain ⟨⟨hcfg, hclken, hinbox, hstream⟩, htrace⟩ := hst
  obtain ⟨⟨hcfg', hclken', hinbox', hstream'⟩, htrace'⟩ := htu
  exact ⟨⟨hcfg'.trans hcfg, hclken'.trans hclken, hinbox'.trans hinbox, hstream'.trans hstream⟩, htrace.trans htrace'⟩

/-- A state that differs in none of what `Continues` speaks of. -/
theorem Continues.of_eq {s t : State} (hworld : sameWorld s t) (htrace : t.trace = s.trace) : Continues s t :=
  ⟨hworld, htrace ▸ List.prefix_rfl⟩

theorem Continues.bind {s t : State} {x : Except Refusal State} {f : State → Except Refusal State}
    (h : x.bind f = .ok t) (hx : ∀ m, x = .ok m → Continues s m) (hf : ∀ m, f m = .ok t → Continues m t) :
    Continues s t := by
  cases x with
  | error e => simp [Except.bind] at h
  | ok m => exact (hx m rfl).trans (hf m h)

/-! ## Each shared operation -/

theorem after_continues (es : List Event) (s : State) : Continues s (after es s) :=
  ⟨⟨rfl, rfl, rfl, rfl⟩, List.prefix_append ..⟩

theorem regWrite_continues (p : PortIx) (r : Reg) (v : Word) (s : State) : Continues s (regWrite p r v s) :=
  after_continues [.wr p r v] s

theorem drawPad_continues (p : PortIx) (s : State) : Continues s (drawPad p s).2 := by
  unfold drawPad
  split <;> exact .of_eq ⟨rfl, rfl, rfl, rfl⟩ rfl

theorem regRead_continues {p : PortIx} {r : Reg} {v : Word} {s t : State} (h : regRead p r s = .ok (v, t)) :
    Continues s t := by
  cases r with
  | bsr => simp [regRead] at h
  | idata =>
    obtain ⟨-, rfl⟩ := Prod.mk.inj (Except.ok.inj h)
    exact (drawPad_continues p s).trans (after_continues [.rdi p (drawPad p s).1] _)
  | _ =>
    obtain ⟨-, rfl⟩ := Prod.mk.inj (Except.ok.inj h)
    exact .refl s

theorem modifyReg_continues {p : PortIx} {r : Reg} {f : Word → Word} {s t : State} (h : modifyReg p r f s = .ok t) :
    Continues s t := by
  unfold modifyReg at h
  split at h
  · simp at h
  · rename_i a m hread
    obtain rfl := Except.ok.inj h
    exact (regRead_continues hread).trans (regWrite_continues ..)

theorem fieldWrite_continues {p : PortIx} {r : Reg} {off w : Nat} {val : Word} {s t : State}
    (h : fieldWrite p r off w val s = .ok t) : Continues s t :=
  .bind h (fun _ => modifyReg_continues) (fun _ => modifyReg_continues)

theorem setupPin_continues {r : Role} {s t : State} (h : setupPin r s = .ok t) : Continues s t := by
  unfold setupPin at h
  exact .bind h (fun _ => fieldWrite_continues) fun _ h =>
  .bind h (fun _ => fieldWrite_continues) fun _ h =>
  .bind h (fun _ => fieldWrite_continues) fun _ => fieldWrite_continues

theorem togglePin_continues {p : PortIx} {n : PinIx} {s t : State} (h : togglePin p n s = .ok t) : Continues s t := by
  unfold togglePin at h
  exact modifyReg_continues h

theorem readPin_continues {p : PortIx} {n : PinIx} {s t : State} (h : readPin p n s = .ok t) : Continues s t := by
  unfold readPin at h
  split at h
  · simp at h
  · rename_i v m hread
    obtain rfl := Except.ok.inj h
    exact (regRead_continues hread).trans (.of_eq ⟨rfl, rfl, rfl, rfl⟩ rfl)

theorem sendCommand_continues (b : Byte) (s : State) : Continues s (sendCommand b s) :=
  sendCommand_eq b s ▸ after_continues ..

/-! ## The sequencer, the instructions, the step -/

theorem perform_continues {a : Action} {s t : State} (h : perform a s = .ok t) : Continues s t := by
  cases a <;> simp only [perform, Except.ok.injEq] at h
  case fieldWrite => exact fieldWrite_continues h
  case clearField | setField => exact modifyReg_continues h
  case toggle => exact togglePin_continues h
  case readLevel => exact readPin_continues h
  case setupPin => exact setupPin_continues h
  case writeLevel | drive => exact h ▸ regWrite_continues ..
  case wait d => exact h ▸ after_continues [.wait d] s
  case nibble => exact h ▸ sendNibble_eq .. ▸ after_continues ..
  case data => exact h ▸ sendData_eq .. ▸ after_continues ..
  case command | instructionByte =>
    split at h
    · simp at h
    · exact Except.ok.inj h ▸ sendCommand_continues ..
  case latch | selectFourBit | entryMode | cursor | advance | initDone | respond =>
    exact h ▸ .of_eq ⟨rfl, rfl, rfl, rfl⟩ rfl

theorem runActions_continues {as : List Action} {s t : State} (h : runActions as s = .ok t) : Continues s t :=
  runActions_induction (P := Continues s) (fun _ _ _ _ hperform hm => hm.trans (perform_continues hperform)) h (.refl s)

/-- Whatever an instruction does, the configuration, the inputs and what waits outside stay, and the trace grows. -/
theorem exec_continues {i : Instr} {s t : State} (h : exec i s = .next t) : Continues s t := by
  obtain ⟨-, -, hrun⟩ | ⟨-, -, rfl⟩ := exec_next h
  · have haccepted : Continues s (accepted i (stepsOf i s) s) := .of_eq ⟨rfl, rfl, rfl, rfl⟩ rfl
    exact haccepted.trans (runActions_continues hrun)
  · exact after_continues ..

/-- Fetching takes from what waits outside and from the steps to perform, never from the configuration or the trace; and
what it finds outside is a reset only where one is next. -/
def FetchedFrom (s : State) : Fetched → Prop
  | .nothing | .stop _ | .lost _ => True
  | .run _ t | .micro _ t => t.cfg = s.cfg ∧ t.trace = s.trace
  | .outside e t => t.cfg = s.cfg ∧ t.trace = s.trace ∧ (NoReset s → e ≠ .reset)

theorem fetchBusy_fetchedFrom (op : Instr) (todo : List Action) (s : State) :
    FetchedFrom s (fetchBusy op todo s) := by
  unfold fetchBusy
  split
  · trivial
  · split
    · exact ⟨rfl, rfl⟩
    · trivial
  · split
    · trivial
    · exact ⟨rfl, rfl⟩

theorem fetchIdle_fetchedFrom (s : State) : FetchedFrom s (fetchIdle s) := by
  unfold fetchIdle
  split
  · trivial
  · split
    · exact ⟨rfl, rfl⟩
    · trivial
    · trivial
  · rename_i e rest hinbox
    exact ⟨rfl, rfl, fun hreset he => hreset rest (he ▸ hinbox)⟩

theorem fetch_fetchedFrom (s : State) : FetchedFrom s (fetch s) := by
  unfold fetch
  split
  · rename_i rest hinbox
    exact ⟨rfl, rfl, fun hreset => absurd hinbox (hreset rest)⟩
  · split
    · exact fetchBusy_fetchedFrom ..
    · exact fetchIdle_fetchedFrom s

theorem outsideWrite_next {p : PortIx} {r : Reg} {v : Word} {s t : State} (h : outsideWrite p r v s = .next t) :
    t = setPort p ((port s p).write r v) s := by
  unfold outsideWrite at h
  split at h
  · simp at h
  · exact (Host.Outcome.next.inj h).symm

theorem outside_next {e : WorldEvent} {s t : State} (h : outside e s = .next t) :
    t.cfg = s.cfg ∧ (e ≠ .reset → t.trace = s.trace) := by
  cases e with
  | clken v => obtain rfl := Host.Outcome.next.inj h; exact ⟨rfl, fun _ => rfl⟩
  | portWrite p r v => obtain rfl := outsideWrite_next h; exact ⟨rfl, fun _ => rfl⟩
  | reset => obtain rfl := Host.Outcome.next.inj h; exact ⟨rfl, fun he => absurd rfl he⟩

theorem toOutcome_next {x : Except Refusal State} {t : State} (h : toOutcome x = .next t) : x = .ok t := by
  cases x with
  | ok m => exact congrArg _ (Host.Outcome.next.inj h)
  | error e => simp [toOutcome] at h

/-- What continues a fetched state keeps the configuration and the trace of the state it was fetched from. -/
theorem Continues.from_fetched {s m t : State} (h : Continues m t) (hm : m.cfg = s.cfg ∧ m.trace = s.trace) :
    t.cfg = s.cfg ∧ s.trace <+: t.trace := by
  obtain ⟨hcfg, htrace⟩ := hm
  obtain ⟨⟨hcfg', -⟩, hgrows⟩ := h
  exact ⟨hcfg'.trans hcfg, htrace ▸ hgrows⟩

/-- The configuration never changes, and the trace only grows unless the platform resets the block. -/
theorem step_keeps {s t : State} (h : step s = .next t) :
    t.cfg = s.cfg ∧ (NoReset s → s.trace <+: t.trace) := by
  have hfetch := fetch_fetchedFrom s
  unfold step at h
  generalize fetch s = fetched at h hfetch
  cases fetched with
  | nothing =>
    obtain rfl := Host.Outcome.next.inj h
    exact ⟨rfl, fun _ => List.prefix_rfl⟩
  | run i m =>
    obtain ⟨hcfg, hgrows⟩ := (exec_continues h).from_fetched hfetch
    exact ⟨hcfg, fun _ => hgrows⟩
  | micro a m =>
    obtain ⟨hcfg, hgrows⟩ := (perform_continues (toOutcome_next h)).from_fetched hfetch
    exact ⟨hcfg, fun _ => hgrows⟩
  | outside e m =>
    obtain ⟨hcfg, htrace, hnext⟩ := hfetch
    obtain ⟨hcfg', htrace'⟩ := outside_next h
    exact ⟨hcfg'.trans hcfg, fun hreset => (htrace' (hnext hreset)).trans htrace ▸ List.prefix_rfl⟩
  | stop r | lost f => simp at h

/-- Settles O53: no assignment of the model is to the configuration, and every event is appended at the end of the
trace, which only a platform reset empties. -/
theorem configConstantTraceGrows : Obligations.ConfigConstantTraceGrows := by
  intro s t h
  obtain ⟨hcfg, hgrows⟩ := step_keeps h
  exact ⟨hcfg, fun hreset => (hgrows hreset).imp fun _ hes => hes.symm⟩

end Sys2Proof.Machine

/-! PROOFS. `LCD_SET_CURSOR` in range, and the address it sends (spec/00_scope.md R6; spec/43_lcd_ops.md R96, R100). -/

namespace Sys2Proof.Machine

/-! ## The address byte -/

theorem setDdramByte_toNat (a : BitVec 7) : (setDdramByte a).toNat = 0x80 + a.toNat := by
  have hor : 0x80 + a.toNat = 0x80 ||| a.toNat := Nat.two_pow_add_eq_or_of_lt (i := 7) a.isLt 1
  simp [setDdramByte, Nat.mod_eq_of_lt (show a.toNat < 256 by omega), hor]

theorem setDdramByte_ne_zero (a : BitVec 7) : setDdramByte a ≠ 0 := by
  intro h
  have := congrArg BitVec.toNat h
  rw [setDdramByte_toNat] at this
  simp at this

/-- The address byte is the sum, truncated to the seven bits of the address (R96). -/
theorem setDdramByte_ddramAddress (base : BitVec 7) (col : Byte) :
    setDdramByte (ddramAddress base col) = BitVec.ofNat 8 (0x80 + (col.toNat + base.toNat) % 128) := by
  apply BitVec.eq_of_toNat_eq
  rw [setDdramByte_toNat, ddramAddress, BitVec.toNat_ofNat, BitVec.toNat_ofNat]
  omega

/-! ## The operation in range -/

theorem setCursorSteps_inRange {row col : Byte} {s : State} (hrow : row.toNat < s.lpd.rows.toNat)
    (hcol : col.toNat < s.lpd.cols.toNat) :
    setCursorSteps row col s =
      [.command (setDdramByte (ddramAddress (s.cfg.rowBase row.toNat) col)), .cursor row col, .respond .ok false] := by
  rw [setCursorSteps, if_neg (BitVec.not_le.mpr hrow), if_neg (BitVec.not_le.mpr hcol)]

theorem exec_lcdSetCursor_inRange {row col : Byte} {s : State} (hready : LcdReady s)
    (hrow : row.toNat < s.lpd.rows.toNat) (hcol : col.toNat < s.lpd.cols.toNat) :
    exec (.lcdSetCursor row col) s =
      .next { after (commandEvents s.cfg s.lpd.lmap
                (setDdramByte (ddramAddress (s.cfg.rowBase row.toNat) col))) s with
              lpd := { s.lpd with curRow := row, curCol := col }, resp := ⟨.ok, false⟩ } := by
  obtain ⟨hidle, haccept⟩ := hready
  refine operate_accepted hidle (lcdChecks_none.mpr haccept) ?_
  rw [setCursorSteps_inRange hrow hcol, runActions_cons (perform_command (setDdramByte_ne_zero _) _)]
  simp only [runActions, perform, respond, setCursor, after, accepted, ← hidle]

/-! ## In a well-formed configuration -/

/-- Every row of a well-formed configuration fits the seven bits of an address (R6 clause 4). -/
theorem rowBase_add_col_lt {c : Cfg} (hc : c.WellFormed) {row col : Byte} (hrow : row.toNat < c.lcdRows.toNat)
    (hcol : col.toNat < c.lcdCols.toNat) : (c.rowBase row.toNat).toNat + col.toNat < 128 := by
  have := hc.addresses_fit row.toNat hrow
  omega

/-- Settles O32: in a settled session the geometry is the configuration's, so the address fits seven bits and its
truncation loses nothing. -/
theorem setCursorAddressIsWhole : Obligations.SetCursorAddressIsWhole := by
  intro row col s hwf hsettled hready hrow hcol
  obtain ⟨-, hlatched⟩ := hsettled
  have ⟨_, hinit, _⟩ := hready
  obtain ⟨-, hrows, hcols, -⟩ := hlatched hinit
  have hfit := rowBase_add_col_lt hwf (hrows ▸ hrow) (hcols ▸ hcol)
  refine ⟨by omega, _, exec_lcdSetCursor_inRange hready hrow hcol, ?_⟩
  have hwhole : 0x80 + (col.toNat + (s.cfg.rowBase row.toNat).toNat) % 128 =
      0x80 + (s.cfg.rowBase row.toNat).toNat + col.toNat := by omega
  rw [after_trace, setDdramByte_ddramAddress, hwhole]

end Sys2Proof.Machine

/-! PROOFS. Where a step finds what it does next, what the platform does between operations, and what reset leaves
(spec/10_state.md R22, R27, R32; spec/70_reset_and_hazards.md R116, R127). -/

namespace Sys2Proof.Machine

/-! ## Fetching -/

theorem fetch_idle {s : State} (hseq : s.seq = .idle) (hreset : NoReset s) : fetch s = fetchIdle s := by
  unfold fetch
  split
  · rename_i rest hinbox; exact absurd hinbox (hreset rest)
  · rw [hseq]

/-- With a request next, no reset is. -/
theorem noReset_of_request {s : State} {w : Word} {rest : List HostEvent} (h : s.inbox = .request w :: rest) :
    NoReset s := by
  simp [NoReset, h]

theorem fetch_request {s : State} {w : Word} {rest : List HostEvent} {i : Instr} {stream : List Byte}
    (hseq : s.seq = .idle) (hinbox : s.inbox = .request w :: rest)
    (hdecode : decodeRequest w s.stream = .ok (i, stream)) :
    fetch s = .run i { s with inbox := rest, stream := stream } := by
  rw [fetch_idle hseq (noReset_of_request hinbox)]
  simp [fetchIdle, hinbox, hdecode]

theorem fetch_incompleteString {s : State} {w : Word} {rest : List HostEvent} (hseq : s.seq = .idle)
    (hinbox : s.inbox = .request w :: rest) (hdecode : decodeRequest w s.stream = .error .incompleteString) :
    fetch s = .nothing := by
  rw [fetch_idle hseq (noReset_of_request hinbox)]
  simp [fetchIdle, hinbox, hdecode]

theorem fetch_emptyInbox {s : State} (hseq : s.seq = .idle) (hinbox : s.inbox = []) : fetch s = .nothing := by
  rw [fetch_idle hseq (by simp [NoReset, hinbox])]
  simp [fetchIdle, hinbox]

/-- Any event of the platform that is next at an idle block is what the step answers to. -/
theorem fetch_world {s : State} {e : WorldEvent} {rest : List HostEvent} (hseq : s.seq = .idle)
    (hinbox : s.inbox = .world e :: rest) : fetch s = .outside e { s with inbox := rest } := by
  cases e with
  | reset => exact fetch_reset hinbox
  | clken | portWrite =>
    rw [fetch_idle hseq (by simp [NoReset, hinbox])]
    simp [fetchIdle, hinbox]

theorem fetch_instructionByte {s : State} {op i : Instr} {b : Byte} {rest : List Action}
    (hseq : s.seq = .busy op (.instructionByte b :: rest)) (hreset : NoReset s) (hdecode : decodeByte b = .ok i) :
    fetch s = .run i { s with seq := .busy op rest } := by
  unfold fetch
  split
  · rename_i r hinbox; exact absurd hinbox (hreset r)
  · simp [hseq, fetchBusy, hdecode]

/-! ## Stepping -/

theorem step_busy {s : State} {op : Instr} {a x : Action} {rest more : List Action}
    (hseq : s.seq = .busy op (a :: rest)) (hbyte : ∀ b, a ≠ .instructionByte b) (hreset : NoReset s)
    (hsmall : smallSteps s a = x :: more) :
    step s = toOutcome (perform x { s with seq := .busy op (more ++ rest) }) := by
  rw [step, fetch_busy hseq hbyte hreset hsmall]

theorem step_reset {s : State} {rest : List HostEvent} (h : s.inbox = .world .reset :: rest) :
    step s = .next (platformReset { s with inbox := rest }) := by
  rw [step, fetch_reset h]
  rfl

theorem step_world {s : State} {e : WorldEvent} {rest : List HostEvent} (hseq : s.seq = .idle)
    (hinbox : s.inbox = .world e :: rest) : step s = outside e { s with inbox := rest } := by
  rw [step, fetch_world hseq hinbox]

/-- Settles O6: what `fetch` finds in each of the six situations. -/
theorem stepRunsDecodedInstruction : Obligations.StepRunsDecodedInstruction := by
  intro s
  refine ⟨?request, ?byte, ?micro, ?empty, ?incomplete, ?reset⟩
  case request =>
    intro w rest i stream hseq hinbox hdecode
    rw [step, fetch_request hseq hinbox hdecode]
  case byte =>
    intro op b rest i hreset hseq hdecode
    rw [step, fetch_instructionByte hseq hreset hdecode]
  case micro =>
    intro op a rest x more hreset hseq hbyte hsmall
    exact step_busy hseq hbyte hreset hsmall
  case empty =>
    intro hseq hinbox
    rw [step, fetch_emptyInbox hseq hinbox]
  case incomplete =>
    intro w rest hseq hinbox hdecode
    rw [step, fetch_incompleteString hseq hinbox hdecode]
  case reset => exact fun rest hinbox => step_reset hinbox

/-! ## The busy block -/

theorem isCommandByte_of_request {i : Instr} (h : isOperation i = true ∨ isReserved i = true) :
    isCommandByte i = false := by
  cases i <;> simp_all [isOperation, isReserved, isCommandByte]

/-- Settles O10: every request goes through `operate`, whose first check is that the block is idle. -/
theorem busyBlockTakesNoRequest : Obligations.BusyBlockTakesNoRequest := by
  intro i s hrequest hbusy
  rw [exec_request (isCommandByte_of_request hrequest)]
  cases hseq : s.seq with
  | idle => exact absurd hseq hbusy
  | busy op todo => exact operate_busy hseq ..

/-! ## Reset -/

@[simp] theorem platformReset_cfg (s : State) : (platformReset s).cfg = s.cfg := rfl
@[simp] theorem platformReset_initDone (s : State) : (platformReset s).lpd.initDone = false := rfl
@[simp] theorem platformReset_if4 (s : State) : (platformReset s).lpd.if4 = false := rfl
@[simp] theorem platformReset_seq (s : State) : (platformReset s).seq = .idle := rfl
@[simp] theorem platformReset_trace (s : State) : (platformReset s).trace = [] := rfl
@[simp] theorem platformReset_clken (s : State) : (platformReset s).clken = s.clken := rfl
@[simp] theorem platformReset_pads (s : State) : (platformReset s).pads = s.pads := rfl
@[simp] theorem platformReset_inbox (s : State) : (platformReset s).inbox = s.inbox := rfl
@[simp] theorem platformReset_stream (s : State) : (platformReset s).stream = s.stream := rfl

/-- Settles O46: the block is idle and `INIT_DONE` is 0, so the session invariant asks nothing. -/
theorem resetIsSettled : Obligations.ResetIsSettled := by
  refine ⟨rfl, fun hinit => ?_⟩
  have : State.reset.lpd.initDone = false := rfl
  simp [this] at hinit

/-- Settles O59: after power-on nothing is presented, and a platform reset assigns each element R32 gives a value. -/
theorem resetLeaves : Obligations.ResetLeaves := by
  refine ⟨rfl, rfl, rfl, rfl, ?powerOn, ?withinRun⟩
  case powerOn => rw [step, fetch_emptyInbox rfl rfl]
  case withinRun =>
    intro s rest hinbox
    exact ⟨_, step_reset hinbox, by simp⟩

/-! ## The platform between operations -/

theorem firstRefusal_portChecks (s : State) (p : PortIx) :
    firstRefusal (portChecks s p) =
      if p.toNat < s.cfg.nports then
        if s.clken.getLsbD p.toNat = true then none else some .portClockDisabled
      else some .invalidPortHandle := by
  by_cases hp : p.toNat < s.cfg.nports <;> simp [portChecks, firstRefusal, clockOn, portExists, hp]

theorem outsideWrite_eq (p : PortIx) (r : Reg) (v : Word) (s : State) :
    outsideWrite p r v s =
      if p.toNat < s.cfg.nports then
        if s.clken.getLsbD p.toNat = true then .next (setPort p ((port s p).write r v) s)
        else .refused .portClockDisabled
      else .refused .invalidPortHandle := by
  rw [outsideWrite, firstRefusal_portChecks]
  split_ifs <;> rfl

/-- Settles O60: an event of the platform at an idle block is answered by `outside`, and another agent's write is
`setPort` behind the checks of a PRM operation. -/
theorem worldBetweenOperations : Obligations.WorldBetweenOperations := by
  intro s rest hseq
  refine ⟨fun v hinbox => step_world hseq hinbox, fun p r v hinbox => ?_⟩
  have hstep : step s = outsideWrite p r v { s with inbox := rest } := step_world hseq hinbox
  rw [outsideWrite_eq] at hstep
  refine ⟨fun hp hclock => ?_, fun hp => ?_, fun hp hclock => ?_⟩
  · rw [if_pos hp, if_pos hclock] at hstep
    refine ⟨_, hstep, rfl, fun p' hne => port_setPort_ne hne .., ?_⟩
    rw [port_setPort_same, port_regWrite_same]
    rfl
  · rw [hstep, if_neg (Nat.not_lt.mpr hp)]
  · rw [hstep, if_pos hp, if_neg (by simp [hclock])]

end Sys2Proof.Machine

/-! PROOFS. Which events each step of a sequence can append, with their replay on the ports, and what follows for the
instructions: the words written to `BSR`, the registers never written, the frame of the LCD operations
(spec/10_state.md R18, R19, R25, R28; spec/20_memory.md R41; spec/41_lcd_primitives.md R75 to R79). -/

namespace Sys2Proof.Machine

/-! ## From one state to another by events -/

/-- Between two states the events `es` are appended, and the ports are changed by them and by nothing else (R28, R81). -/
def Through (es : List Event) (s t : State) : Prop := t.trace = s.trace ++ es ∧ t.ports = replayAll s.ports es

/-- Between two states only events that meet `P` are appended, and the ports are changed by them alone. -/
def Appends (P : Event → Prop) (s t : State) : Prop := ∃ es, Through es s t ∧ ∀ e ∈ es, P e

section
variable {P Q : Event → Prop} {s t u : State}

/-- A change that touches neither the trace nor the ports. -/
theorem Through.of_eq (htrace : t.trace = s.trace) (hports : t.ports = s.ports) : Through [] s t :=
  ⟨by simp [htrace], by simp [hports]⟩

theorem Through.trans {as bs : List Event} (hst : Through as s t) (htu : Through bs t u) :
    Through (as ++ bs) s u := by
  obtain ⟨htrace, hports⟩ := hst
  obtain ⟨htrace', hports'⟩ := htu
  exact ⟨by rw [htrace', htrace, List.append_assoc], by rw [hports', hports, replayAll_append]⟩

theorem through_after (es : List Event) (s : State) : Through es s (after es s) := ⟨rfl, rfl⟩

theorem Appends.of_eq (htrace : t.trace = s.trace) (hports : t.ports = s.ports) : Appends P s t :=
  ⟨[], .of_eq htrace hports, by simp⟩

theorem Appends.refl (s : State) : Appends P s s := .of_eq rfl rfl

theorem Appends.trans (hst : Appends P s t) (htu : Appends P t u) : Appends P s u := by
  obtain ⟨as, has, hP⟩ := hst
  obtain ⟨bs, hbs, hP'⟩ := htu
  exact ⟨as ++ bs, has.trans hbs, List.forall_mem_append.mpr ⟨hP, hP'⟩⟩

theorem Appends.mono (h : Appends P s t) (hPQ : ∀ e, P e → Q e) : Appends Q s t := by
  obtain ⟨es, hes, hP⟩ := h
  exact ⟨es, hes, fun e he => hPQ e (hP e he)⟩

theorem Appends.bind {x : Except Refusal State} {f : State → Except Refusal State} (h : x.bind f = .ok t)
    (hx : ∀ m, x = .ok m → Appends P s m) (hf : ∀ m, f m = .ok t → Appends P m t) : Appends P s t := by
  cases x with
  | error e => simp [Except.bind] at h
  | ok m => exact (hx m rfl).trans (hf m h)

theorem appends_after {es : List Event} (h : ∀ e ∈ es, P e) (s : State) : Appends P s (after es s) :=
  ⟨es, through_after es s, h⟩

/-- The events between two states are those by which the one trace is longer than the other. -/
theorem Appends.events (h : Appends P s t) {es : List Event} (htrace : t.trace = s.trace ++ es) :
    t.ports = replayAll s.ports es ∧ ∀ e ∈ es, P e := by
  obtain ⟨es', ⟨htrace', hports⟩, hP⟩ := h
  obtain rfl := List.append_cancel_left (htrace.symm.trans htrace')
  exact ⟨hports, hP⟩

end

/-! ## What a step of a sequence can append -/

/-- A write of register `r` of port `p`, or a read of its pins if `r` is `IDATA` (R28). -/
def accesses (p : PortIx) (r : Reg) : Event → Prop
  | .wr p' r' _ => p' = p ∧ r' = r
  | .rdi p' _ => p' = p ∧ r = .idata
  | .wait _ => False

/-- What the display bus is driven by: one of the seven lines of `m` set to a level, or a wait (R74, R75). -/
def isBusEvent (m : LineMap) (e : Event) : Prop := (∃ r l, e = driveEvent m r l) ∨ ∃ d, e = .wait d

/-- The events a step of a sequence can append, the lines being those of `m` (R42, R70 to R79, R84). -/
def mayAppend (m : LineMap) : Action → Event → Prop
  | .fieldWrite p r _ _ _ | .clearField p r _ _ | .setField p r _ _ => accesses p r
  | .writeLevel p n l => fun e => e = .wr p .bsr (bsrWord n l)
  | .readLevel p _ => fun e => ∃ v, e = .rdi p v
  | .toggle p _ => accesses p .odata
  | .drive _ _ | .wait _ | .nibble _ | .command _ | .instructionByte _ | .data _ => isBusEvent m
  | .setupPin role => fun e => ∃ r ∈ [Reg.mode, .otype, .speed, .pull], accesses (m.pin role).port r e
  | .latch | .selectFourBit | .entryMode _ _ | .cursor _ _ | .advance | .initDone | .respond _ _ => fun _ => False

/-! ### Register access -/

theorem drawPad_trace (p : PortIx) (s : State) : (drawPad p s).2.trace = s.trace := by
  unfold drawPad
  split <;> rfl

theorem drawPad_ports (p : PortIx) (s : State) : (drawPad p s).2.ports = s.ports := by
  unfold drawPad
  split <;> rfl

/-- A read is silent, or it reads the pins and appends the one event that says so (R28, R40). -/
theorem regRead_through {p : PortIx} {r : Reg} {a : Word} {s t : State} (h : regRead p r s = .ok (a, t)) :
    Through [] s t ∨ r = .idata ∧ ∃ v, Through [.rdi p v] s t := by
  cases r with
  | bsr => simp [regRead] at h
  | idata =>
    obtain ⟨-, rfl⟩ := Prod.mk.inj (Except.ok.inj h)
    exact .inr ⟨rfl, _, (Through.of_eq (drawPad_trace p s) (drawPad_ports p s)).trans (through_after _ _)⟩
  | _ =>
    obtain ⟨-, rfl⟩ := Prod.mk.inj (Except.ok.inj h)
    exact .inl (.of_eq rfl rfl)

/-- A read-modify-write appends its one write, behind the event of the read if there is one (R42). -/
theorem modifyReg_through {p : PortIx} {r : Reg} {f : Word → Word} {s t : State} (h : modifyReg p r f s = .ok t) :
    ∃ v, Through [.wr p r v] s t ∨ r = .idata ∧ ∃ x, Through [.rdi p x, .wr p r v] s t := by
  unfold modifyReg at h
  split at h
  · simp at h
  · rename_i a m hread
    obtain rfl := Except.ok.inj h
    have hwrite : Through [.wr p r (f a)] m (regWrite p r (f a) m) := through_after _ m
    obtain hsilent | ⟨hr, x, hx⟩ := regRead_through hread
    · exact ⟨f a, .inl (hsilent.trans hwrite)⟩
    · exact ⟨f a, .inr ⟨hr, x, hx.trans hwrite⟩⟩

theorem modifyReg_appends {p : PortIx} {r : Reg} {f : Word → Word} {s t : State} (h : modifyReg p r f s = .ok t) :
    Appends (accesses p r) s t := by
  obtain ⟨v, hwrite | ⟨hr, x, hboth⟩⟩ := modifyReg_through h
  · exact ⟨_, hwrite, by simp [accesses]⟩
  · exact ⟨_, hboth, by simp [accesses, hr]⟩

theorem fieldWrite_appends {p : PortIx} {r : Reg} {off w : Nat} {val : Word} {s t : State}
    (h : fieldWrite p r off w val s = .ok t) : Appends (accesses p r) s t :=
  .bind h (fun _ => modifyReg_appends) (fun _ => modifyReg_appends)

theorem readPin_appends {p : PortIx} {n : PinIx} {s t : State} (h : readPin p n s = .ok t) :
    Appends (fun e => ∃ v, e = .rdi p v) s t := by
  unfold readPin at h
  split at h
  · simp at h
  · rename_i v m hread
    obtain rfl := Except.ok.inj h
    have hpins : Appends (fun e => ∃ v, e = .rdi p v) s m := by
      obtain hsilent | ⟨-, x, hx⟩ := regRead_through hread
      · exact ⟨_, hsilent, by simp⟩
      · exact ⟨_, hx, by simp⟩
    exact hpins.trans (.of_eq rfl rfl)

theorem setupPin_appends {role : Role} {s t : State} (h : setupPin role s = .ok t) :
    Appends (fun e => ∃ r ∈ [Reg.mode, .otype, .speed, .pull], accesses (s.lpd.lmap.pin role).port r e) s t := by
  have hfield : ∀ {r off w val m u}, r ∈ [Reg.mode, .otype, .speed, .pull] →
      fieldWrite (s.lpd.lmap.pin role).port r off w val m = .ok u →
      Appends (fun e => ∃ r ∈ [Reg.mode, .otype, .speed, .pull], accesses (s.lpd.lmap.pin role).port r e) m u :=
    fun hr hwrite => (fieldWrite_appends hwrite).mono fun _ he => ⟨_, hr, he⟩
  unfold setupPin at h
  exact .bind h (fun _ => hfield (by decide)) fun _ h =>
    .bind h (fun _ => hfield (by decide)) fun _ h =>
    .bind h (fun _ => hfield (by decide)) fun _ => hfield (by decide)

/-! ### The display bus -/

@[simp] theorem isBusEvent_drive (m : LineMap) (r : Role) (l : Level) : isBusEvent m (driveEvent m r l) :=
  .inl ⟨r, l, rfl⟩

@[simp] theorem isBusEvent_wait (m : LineMap) (d : Nat) : isBusEvent m (.wait d) := .inr ⟨d, rfl⟩

theorem isBusEvent_of_mem_nibbleEvents {c : Cfg} {m : LineMap} {n : Nibble} :
    ∀ e ∈ nibbleEvents c m n, isBusEvent m e := by
  simp [nibbleEvents]

theorem isBusEvent_of_mem_byteEvents {c : Cfg} {m : LineMap} {b : Byte} : ∀ e ∈ byteEvents c m b, isBusEvent m e :=
  List.forall_mem_append.mpr ⟨isBusEvent_of_mem_nibbleEvents, isBusEvent_of_mem_nibbleEvents⟩

theorem isBusEvent_of_mem_commandEvents {c : Cfg} {m : LineMap} {b : Byte} :
    ∀ e ∈ commandEvents c m b, isBusEvent m e :=
  List.forall_mem_cons.mpr ⟨isBusEvent_drive .., isBusEvent_of_mem_byteEvents⟩

theorem isBusEvent_of_mem_dataEvents {c : Cfg} {m : LineMap} {b : Byte} : ∀ e ∈ dataEvents c m b, isBusEvent m e :=
  List.forall_mem_cons.mpr ⟨isBusEvent_drive .., isBusEvent_of_mem_byteEvents⟩

theorem sendCommand_appends (b : Byte) (s : State) : Appends (isBusEvent s.lpd.lmap) s (sendCommand b s) :=
  sendCommand_eq b s ▸ appends_after isBusEvent_of_mem_commandEvents s

/-! ### The sequencer -/

theorem perform_appends {a : Action} {s t : State} (h : perform a s = .ok t) :
    Appends (mayAppend s.lpd.lmap a) s t := by
  cases a <;> simp only [perform, Except.ok.injEq] at h
  case fieldWrite => exact fieldWrite_appends h
  case clearField | setField | toggle => exact modifyReg_appends h
  case readLevel => exact readPin_appends h
  case setupPin => exact setupPin_appends h
  case writeLevel p n l => exact h ▸ appends_after (es := [.wr p .bsr (bsrWord n l)]) (by simp [mayAppend]) s
  case drive r l => exact h ▸ drive_eq r l s ▸ appends_after (by simp [mayAppend]) s
  case wait d => exact h ▸ wait_eq d s ▸ appends_after (by simp [mayAppend]) s
  case nibble n => exact h ▸ sendNibble_eq n s ▸ appends_after isBusEvent_of_mem_nibbleEvents s
  case data b => exact h ▸ sendData_eq b s ▸ appends_after isBusEvent_of_mem_dataEvents s
  case command | instructionByte =>
    split at h
    · simp at h
    · exact Except.ok.inj h ▸ sendCommand_appends ..
  case latch | selectFourBit | entryMode | cursor | advance | initDone | respond => exact h ▸ .of_eq rfl rfl

/-- What every step of a sequence can append, whatever the lines are, the sequence appends. -/
theorem runActions_appends {P : Event → Prop} {as : List Action} (hP : ∀ a ∈ as, ∀ m e, mayAppend m a e → P e)
    {s t : State} (h : runActions as s = .ok t) : Appends P s t :=
  runActions_induction (P := Appends P s)
    (fun a ha _ _ hperform hm => hm.trans ((perform_appends hperform).mono (hP a ha _))) h (.refl s)

/-! ## Lawful writes -/

/-- What the block may write: to `BSR` one set bit, to `LOCK` and `IDATA` nothing (R18, R19, R41). -/
def isLawful : Event → Prop
  | .wr _ .bsr v => ∃ k, k < 32 ∧ v = 1#32 <<< k
  | .wr _ .lock _ | .wr _ .idata _ => False
  | .wr _ _ _ | .rdi _ _ | .wait _ => True

/-- The registers that hold configuration fields (R12 to R15, R20, R21). -/
def isFieldReg : Reg → Bool
  | .mode | .otype | .speed | .pull | .afl | .afh => true
  | .idata | .odata | .bsr | .lock => false

/-- A step that updates no field but in a register that holds fields. -/
def updatesFieldRegs : Action → Bool
  | .fieldWrite _ r _ _ _ | .clearField _ r _ _ | .setField _ r _ _ => isFieldReg r
  | .writeLevel _ _ _ | .readLevel _ _ | .toggle _ _ | .drive _ _ | .wait _ | .nibble _ | .command _
  | .instructionByte _ | .data _ | .latch | .setupPin _ | .selectFourBit | .entryMode _ _ | .cursor _ _ | .advance
  | .initDone | .respond _ _ => true

/-- The word that drives one pin has one bit set (R18). -/
theorem bsrWord_oneBit (n : PinIx) (l : Level) : ∃ k, k < 32 ∧ bsrWord n l = 1#32 <<< k := by
  have := n.isLt
  cases l with
  | true => exact ⟨n.toNat, by omega, rfl⟩
  | false => exact ⟨n.toNat + 16, by omega, rfl⟩

theorem isLawful_of_accesses {p : PortIx} {r : Reg} {e : Event} (hr : isFieldReg r = true ∨ r = .odata)
    (h : accesses p r e) : isLawful e := by
  cases e with
  | wr p' r' v =>
    obtain ⟨-, rfl⟩ := h
    cases r' <;> simp_all [isFieldReg, isLawful]
  | rdi | wait => trivial

theorem isLawful_of_isBusEvent {m : LineMap} {e : Event} (h : isBusEvent m e) : isLawful e := by
  obtain ⟨r, l, rfl⟩ | ⟨d, rfl⟩ := h
  · exact bsrWord_oneBit _ l
  · trivial

theorem isLawful_of_mayAppend {a : Action} (ha : updatesFieldRegs a = true) (m : LineMap) (e : Event)
    (h : mayAppend m a e) : isLawful e := by
  cases a
  case fieldWrite | clearField | setField => exact isLawful_of_accesses (.inl ha) h
  case toggle => exact isLawful_of_accesses (.inr rfl) h
  case writeLevel p n l => obtain rfl := h; exact bsrWord_oneBit n l
  case readLevel => obtain ⟨v, rfl⟩ := h; trivial
  case setupPin =>
    obtain ⟨r, hr, he⟩ := h
    exact isLawful_of_accesses (.inl (by fin_cases hr <;> rfl)) he
  case drive | wait | nibble | command | instructionByte | data => exact isLawful_of_isBusEvent h
  case latch | selectFourBit | entryMode | cursor | advance | initDone | respond => exact h.elim

theorem isFieldReg_afReg (n : PinIx) : isFieldReg (afReg n) = true := by
  unfold afReg
  split <;> rfl

theorem configureSteps_updatesFieldRegs (d : Descriptor) : ∀ a ∈ configureSteps d, updatesFieldRegs a = true := by
  by_cases hmode : d.mode = 0b10#2
  · simp only [configureSteps, hmode, if_true, List.cons_append, List.nil_append, List.forall_mem_cons]
    exact ⟨rfl, rfl, rfl, rfl, isFieldReg_afReg d.pin, rfl, by simp⟩
  · simp only [configureSteps, hmode, if_false, List.cons_append, List.nil_append, List.forall_mem_cons]
    exact ⟨rfl, rfl, rfl, rfl, rfl, by simp⟩

/-- The two kinds of steps a character is printed by (R97). -/
theorem forall_mem_flatMap_charSteps {P : Action → Prop} (hdata : ∀ c, P (.data c)) (hadvance : P .advance)
    (str : List Byte) : ∀ a ∈ str.flatMap charSteps, P a := by
  intro a ha
  simp only [charSteps, List.mem_flatMap, List.mem_cons, List.not_mem_nil, or_false] at ha
  obtain ⟨c, -, rfl | rfl⟩ := ha
  · exact hdata c
  · exact hadvance

/-- The three kinds of steps a string is printed by (R98). -/
theorem forall_mem_stringSteps {P : Action → Prop} (hdata : ∀ c, P (.data c)) (hadvance : P .advance)
    (hrespond : P (.respond .ok false)) (str : List Byte) : ∀ a ∈ stringSteps str, P a := by
  rw [stringSteps, List.forall_mem_append]
  exact ⟨forall_mem_flatMap_charSteps hdata hadvance str, by simpa using hrespond⟩

/-- Every sequence of the block updates fields only in registers that hold fields (R69, R82, R94 to R98). -/
theorem stepsOf_updatesFieldRegs (i : Instr) (s : State) : ∀ a ∈ stepsOf i s, updatesFieldRegs a = true := by
  cases i with
  | gpioConfigure d =>
    cases d with
    | none => simp [stepsOf, updatesFieldRegs]
    | some d => exact configureSteps_updatesFieldRegs d
  | lcdInit => simp only [stepsOf]; decide
  | lcdSetCursor row col =>
    simp only [stepsOf, setCursorSteps]
    split_ifs <;> simp [updatesFieldRegs]
  | lcdPrintString str => exact forall_mem_stringSteps (P := (updatesFieldRegs · = true)) (fun _ => rfl) rfl rfl str
  | _ => simp [stepsOf, clearSteps, homeSteps, charSteps, updatesFieldRegs]

theorem exec_appends_isLawful {i : Instr} {s t : State} (h : exec i s = .next t) : Appends isLawful s t := by
  obtain ⟨-, -, hrun⟩ | ⟨-, -, rfl⟩ := exec_next h
  · have haccepted : Appends isLawful s (accepted i (stepsOf i s) s) := .of_eq rfl rfl
    exact haccepted.trans
      (runActions_appends (fun a ha => isLawful_of_mayAppend (stepsOf_updatesFieldRegs i s a ha)) hrun)
  · exact appends_after (fun e he => isLawful_of_isBusEvent (isBusEvent_of_mem_commandEvents e he)) s

/-- Settles O14: `BSR` is written only to drive a pin, by the word with the pin's set or reset bit. -/
theorem bsrWordsHaveOneBit : Obligations.BsrWordsHaveOneBit := by
  intro i s t es h htrace p v he
  obtain ⟨-, hlawful⟩ := (exec_appends_isLawful h).events htrace
  exact hlawful _ he

/-! ## Registers no event writes -/

theorem stored_write_of_ne {r r' : Reg} (hne : r' ≠ r) (hbsr : r' = .bsr → r ≠ .odata) (q : Port) (v : Word) :
    (q.write r' v).stored r = q.stored r := by
  by_cases h : r' = .bsr
  · subst h
    cases r with
    | odata => exact absurd rfl (hbsr rfl)
    | _ => rfl
  · exact stored_write_ne hne.symm h v

/-- A register that no write of the list names, and that is not the `ODATA` behind a write of `BSR`, keeps its value. -/
theorem stored_replayAll {r : Reg} {es : List Event}
    (h : ∀ p r' v, Event.wr p r' v ∈ es → r' ≠ r ∧ (r' = .bsr → r ≠ .odata)) (ps : Vector Port 16) (p : PortIx) :
    (portAt (replayAll ps es) p).stored r = (portAt ps p).stored r := by
  induction es generalizing ps with
  | nil => rfl
  | cons e rest ih =>
    rw [replayAll_cons, ih fun p r' v he => h p r' v (List.mem_cons_of_mem _ he)]
    cases e with
    | rdi | wait => rfl
    | wr p' r' v =>
      obtain ⟨hne, hbsr⟩ := h p' r' v (List.mem_cons_self ..)
      rw [portAt_replay_wr]
      split
      · rename_i hp
        subst hp
        exact stored_write_of_ne hne hbsr _ v
      · rfl

/-- Settles O54: no event of an instruction names `LOCK` or `IDATA`, and the ports change by events alone. -/
theorem lockAndIdataNeverWritten : Obligations.LockAndIdataNeverWritten := by
  intro i s t es h htrace
  obtain ⟨hports, hlawful⟩ := (exec_appends_isLawful h).events htrace
  refine ⟨fun p v => ⟨hlawful (.wr p .lock v), hlawful (.wr p .idata v)⟩, fun p => ?_⟩
  have hkeep : ∀ p r v, Event.wr p r v ∈ es → r ≠ .lock ∧ (r = .bsr → Reg.lock ≠ .odata) := by
    rintro p r v he
    exact ⟨fun hr => hlawful (.wr p .lock v) (hr ▸ he), fun _ => by decide⟩
  have hstored := stored_replayAll hkeep s.ports p
  rw [← hports] at hstored
  exact Option.some.inj hstored

/-! ## Every sequence ends in its response -/

/-- The steps that present the response: `respond`, and the read of `GPIO_READ` (R9, R71). -/
def isResponse : Action → Bool
  | .respond _ _ | .readLevel _ _ => true
  | .fieldWrite _ _ _ _ _ | .clearField _ _ _ _ | .setField _ _ _ _ | .writeLevel _ _ _ | .toggle _ _ | .drive _ _
  | .wait _ | .nibble _ | .command _ | .instructionByte _ | .data _ | .latch | .setupPin _ | .selectFourBit
  | .entryMode _ _ | .cursor _ _ | .advance | .initDone => false

/-- The steps that leave the sequencer alone and that a busy block takes in small steps. -/
def isInner : Action → Bool
  | .respond _ _ | .readLevel _ _ | .instructionByte _ => false
  | .fieldWrite _ _ _ _ _ | .clearField _ _ _ _ | .setField _ _ _ _ | .writeLevel _ _ _ | .toggle _ _ | .drive _ _
  | .wait _ | .nibble _ | .command _ | .data _ | .latch | .setupPin _ | .selectFourBit | .entryMode _ _ | .cursor _ _
  | .advance | .initDone => true

/-- An operation's sequence is inner steps and then its one response (R27, R69 to R72, R90, R94 to R98). -/
theorem stepsOf_eq_append_response {i : Instr} (hi : isOperation i = true) (s : State) :
    ∃ body last, stepsOf i s = body ++ [last] ∧ (∀ a ∈ body, isInner a = true) ∧ isResponse last = true := by
  cases i with
  | gpioConfigure d =>
    cases d with
    | none => exact ⟨[], .respond .ok false, rfl, by simp, rfl⟩
    | some d => exact ⟨_, .respond .ok false, rfl, by split_ifs <;> simp [isInner], rfl⟩
  | gpioWrite p n l => exact ⟨[.writeLevel p n l], .respond .ok false, rfl, by simp [isInner], rfl⟩
  | gpioRead p n => exact ⟨[], .readLevel p n, rfl, by simp, rfl⟩
  | gpioToggle p n => exact ⟨[.toggle p n], .respond .ok false, rfl, by simp [isInner], rfl⟩
  | lcdInit => exact ⟨initSteps.dropLast, .respond .ok false, by simp only [stepsOf]; decide, by decide, rfl⟩
  | lcdClear | lcdHome =>
    exact ⟨[.command _, .wait Config.tClear, .cursor 0 0], .respond .ok false, rfl, by simp [isInner], rfl⟩
  | lcdSetCursor row col =>
    simp only [stepsOf, setCursorSteps]
    split_ifs
    · exact ⟨[], .respond .noEffect false, rfl, by simp, rfl⟩
    · exact ⟨[], .respond .noEffect false, rfl, by simp, rfl⟩
    · exact ⟨[.command _, .cursor row col], .respond .ok false, rfl, by simp [isInner], rfl⟩
  | lcdPrintChar c => exact ⟨charSteps c, .respond .ok false, rfl, by simp [charSteps, isInner], rfl⟩
  | lcdPrintString str =>
    exact ⟨str.flatMap charSteps, .respond .ok false, rfl,
      forall_mem_flatMap_charSteps (P := (isInner · = true)) (fun _ => rfl) rfl str, rfl⟩
  | _ => simp [isOperation] at hi

theorem perform_response_idle {a : Action} (ha : isResponse a = true) {s t : State} (h : perform a s = .ok t) :
    t.seq = .idle := by
  cases a <;> simp only [isResponse, Bool.false_eq_true, perform, Except.ok.injEq] at ha h
  case respond => exact h ▸ rfl
  case readLevel =>
    unfold readPin at h
    split at h
    · simp at h
    · exact Except.ok.inj h ▸ rfl

theorem runActions_singleton (a : Action) (s : State) : runActions [a] s = perform a s := by
  rw [runActions]
  cases perform a s <;> rfl

theorem runActions_stepsOf_idle {i : Instr} (hi : isOperation i = true) {s m t : State}
    (h : runActions (stepsOf i s) m = .ok t) : t.seq = .idle := by
  obtain ⟨body, last, hsteps, -, hlast⟩ := stepsOf_eq_append_response hi s
  rw [hsteps] at h
  obtain ⟨n, -, hn⟩ := runActions_append_ok.mp h
  exact perform_response_idle hlast (runActions_singleton last n ▸ hn)

/-! ## The frame of the LCD operations -/

/-- A step that only drives the bus, waits, moves the tracked cursor or responds. -/
def isLcdAction : Action → Bool
  | .drive _ _ | .wait _ | .nibble _ | .command _ | .instructionByte _ | .data _ | .cursor _ _ | .advance
  | .respond _ _ => true
  | .fieldWrite _ _ _ _ _ | .clearField _ _ _ _ | .setField _ _ _ _ | .writeLevel _ _ _ | .readLevel _ _ | .toggle _ _
  | .latch | .setupPin _ | .selectFourBit | .entryMode _ _ | .initDone => false

/-- Between two states only the lines of the display bus are driven, and outside ports, trace, sequencer and response
only the tracked cursor changes (R25, R75). -/
def OnlyBusAndCursor (s t : State) : Prop :=
  Appends (isBusEvent s.lpd.lmap) s t ∧ t.pads = s.pads ∧ t.freeIx = s.freeIx ∧
  t.lpd = { s.lpd with curRow := t.lpd.curRow, curCol := t.lpd.curCol }

theorem OnlyBusAndCursor.refl (s : State) : OnlyBusAndCursor s s := ⟨.refl s, rfl, rfl, rfl⟩

theorem OnlyBusAndCursor.trans {s t u : State} (hst : OnlyBusAndCursor s t) (htu : OnlyBusAndCursor t u) :
    OnlyBusAndCursor s u := by
  obtain ⟨happ, hpads, hfree, hlpd⟩ := hst
  obtain ⟨happ', hpads', hfree', hlpd'⟩ := htu
  have hlmap : t.lpd.lmap = s.lpd.lmap := by rw [hlpd]
  rw [hlmap] at happ'
  refine ⟨happ.trans happ', hpads'.trans hpads, hfree'.trans hfree, ?_⟩
  rw [hlpd', hlpd]

theorem onlyBusAndCursor_after {es : List Event} {s : State} (h : ∀ e ∈ es, isBusEvent s.lpd.lmap e) :
    OnlyBusAndCursor s (after es s) := ⟨appends_after h s, rfl, rfl, rfl⟩

theorem sendCommand_onlyBusAndCursor (b : Byte) (s : State) : OnlyBusAndCursor s (sendCommand b s) :=
  sendCommand_eq b s ▸ onlyBusAndCursor_after isBusEvent_of_mem_commandEvents

theorem perform_onlyBusAndCursor {a : Action} (ha : isLcdAction a = true) {s t : State} (h : perform a s = .ok t) :
    OnlyBusAndCursor s t := by
  cases a <;> simp only [isLcdAction, Bool.false_eq_true, perform, Except.ok.injEq] at ha h
  case drive r l => exact h ▸ drive_eq r l s ▸ onlyBusAndCursor_after (by simp)
  case wait d => exact h ▸ wait_eq d s ▸ onlyBusAndCursor_after (by simp)
  case nibble n => exact h ▸ sendNibble_eq n s ▸ onlyBusAndCursor_after isBusEvent_of_mem_nibbleEvents
  case data b => exact h ▸ sendData_eq b s ▸ onlyBusAndCursor_after isBusEvent_of_mem_dataEvents
  case command | instructionByte =>
    split at h
    · simp at h
    · exact Except.ok.inj h ▸ sendCommand_onlyBusAndCursor ..
  case cursor | advance | respond => exact h ▸ ⟨.of_eq rfl rfl, rfl, rfl, rfl⟩

theorem runActions_onlyBusAndCursor {as : List Action} (has : ∀ a ∈ as, isLcdAction a = true) {s t : State}
    (h : runActions as s = .ok t) : OnlyBusAndCursor s t :=
  runActions_induction (P := OnlyBusAndCursor s)
    (fun a ha _ _ hperform hm => hm.trans (perform_onlyBusAndCursor (has a ha) hperform)) h (.refl s)

theorem stepsOf_isLcdAction {i : Instr} (hi : isLcdOperation i = true) (s : State) :
    ∀ a ∈ stepsOf i s, isLcdAction a = true := by
  cases i with
  | lcdClear | lcdHome | lcdPrintChar => simp [stepsOf, clearSteps, homeSteps, charSteps, isLcdAction]
  | lcdPrintString str => exact forall_mem_stringSteps (P := (isLcdAction · = true)) (fun _ => rfl) rfl rfl str
  | lcdSetCursor row col =>
    simp only [stepsOf, setCursorSteps]
    split_ifs <;> simp [isLcdAction]
  | _ => simp [isLcdOperation] at hi

/-! ### On the ports -/

/-- Driving the lines of the bus changes no register but `ODATA` (R18, R75). -/
theorem samePortBut_odata_of_busEvents {m : LineMap} {es : List Event} (h : ∀ e ∈ es, isBusEvent m e)
    (ps : Vector Port 16) (p : PortIx) : samePortBut [.odata] (portAt ps p) (portAt (replayAll ps es) p) := by
  intro r hr
  by_cases hbsr : r = .bsr
  · subst hbsr; rfl
  · refine stored_replayAll (fun p' r' v he => ?_) ps p
    obtain ⟨role, l, heq⟩ | ⟨d, heq⟩ := h _ he
    · obtain ⟨-, rfl, -⟩ := Event.wr.inj heq
      exact ⟨fun h => hbsr h.symm, fun _ => List.ne_of_not_mem_cons hr⟩
    · simp at heq

/-- Driving the lines of the bus changes no bit of `ODATA` but those of the lines (R18, R75). -/
theorem odata_replayAll_busEvents {m : LineMap} {es : List Event} (h : ∀ e ∈ es, isBusEvent m e) {p : PortIx} {k : Nat}
    (hk : ∀ r, ¬(p = (m.pin r).port ∧ k = (m.pin r).pin.toNat)) (ps : Vector Port 16) :
    (portAt (replayAll ps es) p).odata.getLsbD k = (portAt ps p).odata.getLsbD k := by
  induction es generalizing ps with
  | nil => rfl
  | cons e rest ih =>
    rw [replayAll_cons, ih fun e he => h e (List.mem_cons_of_mem _ he)]
    obtain ⟨r, l, rfl⟩ | ⟨d, rfl⟩ := h e (List.mem_cons_self ..)
    · rw [odata_replay_drive, if_neg (hk r)]
    · rfl

theorem odata_bit_of_not_owned {m : LineMap} {es : List Event} (h : ∀ e ∈ es, isBusEvent m e) {p : PortIx} {n : PinIx}
    (hn : ¬ownedByLcd m p n) (ps : Vector Port 16) :
    (portAt (replayAll ps es) p).odata.getLsbD n.toNat = (portAt ps p).odata.getLsbD n.toNat := by
  refine odata_replayAll_busEvents h (fun r ⟨hp, hpin⟩ => hn ⟨r, by cases r <;> decide, ?_⟩) ps
  rw [hp, BitVec.eq_of_toNat_eq hpin]

theorem odata_upper_of_busEvents {m : LineMap} {es : List Event} (h : ∀ e ∈ es, isBusEvent m e) (ps : Vector Port 16)
    (p : PortIx) :
    (portAt (replayAll ps es) p).odata.extractLsb' 16 16 = (portAt ps p).odata.extractLsb' 16 16 := by
  apply BitVec.eq_of_getLsbD_eq
  intro k _
  have hk : ∀ r, ¬(p = (m.pin r).port ∧ 16 + k = (m.pin r).pin.toNat) := fun r ⟨_, hpin⟩ => by
    have := (m.pin r).pin.isLt
    omega
  simp only [BitVec.getLsbD_extractLsb', odata_replayAll_busEvents h hk]

/-! ### Of an instruction -/

theorem isCommandByte_of_isLcdOperation {i : Instr} (h : isLcdOperation i = true) : isCommandByte i = false := by
  cases i <;> simp_all [isLcdOperation, isCommandByte]

theorem isOperation_of_isLcdOperation {i : Instr} (h : isLcdOperation i = true) : isOperation i = true := by
  cases i <;> simp_all [isLcdOperation, isOperation]

theorem exec_commandByte_next {i : Instr} (hi : isCommandByte i = true) {s t : State} (h : exec i s = .next t) :
    LinesReady s s.lpd.lmap ∧ t = after (commandEvents s.cfg s.lpd.lmap (busByte i)) s := by
  rw [exec_commandByte hi, transmit_eq] at h
  split at h
  · rename_i hclocked
    exact ⟨linesClocked_iff.mp hclocked, (Host.Outcome.next.inj h).symm⟩
  · simp at h

theorem exec_lcdOperation_next {i : Instr} (hi : isLcdOperation i = true) {s t : State} (h : exec i s = .next t) :
    OnlyBusAndCursor s t ∧ t.seq = s.seq := by
  rw [exec_request (isCommandByte_of_isLcdOperation hi)] at h
  obtain ⟨hidle, -, hrun⟩ := operate_next.mp h
  have haccepted : OnlyBusAndCursor s (accepted i (stepsOf i s) s) := ⟨.of_eq rfl rfl, rfl, rfl, rfl⟩
  exact ⟨haccepted.trans (runActions_onlyBusAndCursor (stepsOf_isLcdAction hi s) hrun),
    (runActions_stepsOf_idle (isOperation_of_isLcdOperation hi) hrun).trans hidle.symm⟩

theorem exec_commandByte_onlyBus {i : Instr} (hi : isCommandByte i = true) {s t : State} (h : exec i s = .next t) :
    OnlyBusAndCursor s t ∧ t.seq = s.seq ∧ t.lpd = s.lpd ∧ t.resp = s.resp := by
  obtain ⟨-, rfl⟩ := exec_commandByte_next hi h
  exact ⟨onlyBusAndCursor_after isBusEvent_of_mem_commandEvents, rfl, rfl, rfl⟩

/-- Settles O43: an LCD operation is steps that drive the bus, wait, or move the tracked cursor, and then its response;
a command byte is one transaction on the bus. -/
theorem lcdFrame : Obligations.LcdFrame := by
  intro i s t hi h
  obtain ⟨hworld, -⟩ := exec_continues h
  have hframe : OnlyBusAndCursor s t ∧ t.seq = s.seq := by
    obtain hlcd | hbyte := hi
    · exact exec_lcdOperation_next hlcd h
    · obtain ⟨hbus, hseq, -⟩ := exec_commandByte_onlyBus hbyte h
      exact ⟨hbus, hseq⟩
  obtain ⟨⟨⟨es, ⟨-, hports⟩, hbus⟩, hpads, hfree, hlpd⟩, hseq⟩ := hframe
  refine ⟨hworld, hseq, hpads, hfree, hlpd, ?byte, ?registers, ?pins, ?upper⟩
  case byte =>
    intro hbyte
    obtain ⟨-, -, hlpd, hresp⟩ := exec_commandByte_onlyBus hbyte h
    exact ⟨hlpd, hresp⟩
  all_goals unfold port; rw [hports]
  case registers => exact samePortBut_odata_of_busEvents hbus s.ports
  case pins => exact fun p n hn => odata_bit_of_not_owned hbus hn s.ports
  case upper => exact odata_upper_of_busEvents hbus s.ports

end Sys2Proof.Machine

/-! PROOFS. The big step and the small steps of a busy block agree (spec/10_state.md R27; spec/42_lcd_init.md R90). -/

namespace Sys2Proof.Machine

/-! ## Runs -/

section
variable {M : Host.Core}

theorem run_succ_of_next {n : Nat} {s t : M.State} (h : M.step s = .next t) : M.run (n + 1) s = M.run n t := by
  rw [Host.Core.run, h]

theorem run_succ_congr {s t : M.State} (h : M.step s = M.step t) (n : Nat) : M.run (n + 1) s = M.run (n + 1) t := by
  rw [Host.Core.run, Host.Core.run, h]

theorem run_add_of_next {m n : Nat} {s t : M.State} (h : M.run m s = .next t) : M.run (m + n) s = M.run n t := by
  induction m generalizing s with
  | zero =>
    obtain rfl := Host.Outcome.next.inj h
    rw [Nat.zero_add]
  | succ m ih =>
    rw [Nat.succ_add]
    cases hstep : M.step s with
    | next u =>
      rw [run_succ_of_next hstep] at h ⊢
      exact ih h
    | fault | refused => rw [Host.Core.run, hstep] at h; cases h

end

/-! ## The sequencer put at a point -/

/-- The state with its sequencer at another point. -/
def withSeq (q : Seq) (s : State) : State := { s with seq := q }

theorem drawPad_withSeq (p : PortIx) (q : Seq) (s : State) :
    drawPad p (withSeq q s) = ((drawPad p s).1, withSeq q (drawPad p s).2) := by
  cases hpads : s.pads <;> simp [drawPad, withSeq, hpads]

theorem regRead_withSeq (p : PortIx) (r : Reg) (q : Seq) (s : State) :
    regRead p r (withSeq q s) = (regRead p r s).map fun x => (x.1, withSeq q x.2) := by
  cases r with
  | idata => simp only [regRead, drawPad_withSeq]; rfl
  | _ => rfl

theorem modifyReg_withSeq (p : PortIx) (r : Reg) (f : Word → Word) (q : Seq) (s : State) :
    modifyReg p r f (withSeq q s) = (modifyReg p r f s).map (withSeq q) := by
  rw [modifyReg, modifyReg, regRead_withSeq]
  cases regRead p r s <;> rfl

/-- The steps that are no nested sequences: each is its own one small step (R27, R90). -/
def isSmall : Action → Bool
  | .fieldWrite _ _ _ _ _ | .nibble _ | .data _ | .setupPin _ => false
  | .command b => b == 0
  | .clearField _ _ _ _ | .setField _ _ _ _ | .writeLevel _ _ _ | .readLevel _ _ | .toggle _ _ | .drive _ _ | .wait _
  | .instructionByte _ | .latch | .selectFourBit | .entryMode _ _ | .cursor _ _ | .advance | .initDone
  | .respond _ _ => true

theorem smallSteps_of_isSmall {a : Action} (h : isSmall a = true) (s : State) : smallSteps s a = [a] := by
  cases a <;> simp_all [isSmall, smallSteps]

/-- The two kinds of small steps a command byte is sent by; `0x00` has none (R76 to R78). -/
theorem forall_mem_smallSteps_command {P : Action → Prop} {b : Byte} (hzero : b = 0 → P (.command b))
    (hdrive : ∀ r l, P (.drive r l)) (hwait : ∀ d, P (.wait d)) (s : State) : ∀ x ∈ smallSteps s (.command b), P x := by
  rw [smallSteps]
  split
  · rename_i hb
    simpa using hzero hb
  · simp [transactionSteps, nibbleSteps, hdrive, hwait]

theorem isSmall_of_mem_smallSteps {s : State} {a x : Action} (h : x ∈ smallSteps s a) : isSmall x = true := by
  revert x
  cases a with
  | command b =>
    exact @forall_mem_smallSteps_command (isSmall · = true) b (fun hb => by simp [isSmall, hb]) (fun _ _ => rfl)
      (fun _ => rfl) s
  | _ => simp [smallSteps, fieldSteps, nibbleSteps, transactionSteps, setupSteps, isSmall]

theorem isInner_of_mem_smallSteps {s : State} {a x : Action} (ha : isInner a = true) (h : x ∈ smallSteps s a) :
    isInner x = true := by
  revert x
  cases a with
  | command b =>
    exact @forall_mem_smallSteps_command (isInner · = true) b (fun _ => rfl) (fun _ _ => rfl) (fun _ => rfl) s
  | _ => simp_all [smallSteps, fieldSteps, nibbleSteps, transactionSteps, setupSteps, isInner]

theorem smallSteps_withSeq (q : Seq) (s : State) (a : Action) : smallSteps (withSeq q s) a = smallSteps s a := rfl

/-- A step unfolds into as many small steps whatever the state. -/
theorem length_smallSteps (s t : State) (a : Action) : (smallSteps s a).length = (smallSteps t a).length := by
  cases a with
  | command b => simp only [smallSteps]; split <;> rfl
  | _ => rfl

/-- A small inner step neither looks at the sequencer nor moves it. -/
theorem perform_withSeq {a : Action} (hsmall : isSmall a = true) (hinner : isInner a = true) (q : Seq) (s : State) :
    perform a (withSeq q s) = (perform a s).map (withSeq q) := by
  cases a
  case clearField | setField => exact modifyReg_withSeq ..
  case toggle => simp only [perform, togglePin, modifyReg_withSeq]
  case command b =>
    obtain rfl : b = 0 := by simpa [isSmall] using hsmall
    rfl
  case fieldWrite | nibble | data | setupPin => simp [isSmall] at hsmall
  case readLevel | instructionByte | respond => simp [isInner] at hinner
  case writeLevel | drive | wait | latch | selectFourBit | entryMode | cursor | advance | initDone => rfl

/-- The response overwrites the point the sequencer is at. -/
theorem perform_response_withSeq {a : Action} (ha : isResponse a = true) (q : Seq) (s : State) :
    perform a (withSeq q s) = perform a s := by
  cases a <;> simp only [isResponse, Bool.false_eq_true] at ha
  case respond => rfl
  case readLevel p n =>
    simp only [perform, readPin, regRead_withSeq]
    cases regRead p .idata s <;> rfl

/-! ## Small steps of a busy block -/

theorem noReset_of_inbox {s t : State} (h : NoReset s) (hinbox : t.inbox = s.inbox) : NoReset t :=
  fun rest heq => h rest (hinbox ▸ heq)

theorem noReset_perform {a : Action} {s t : State} (h : NoReset s) (hperform : perform a s = .ok t) : NoReset t := by
  obtain ⟨⟨-, -, hinbox, -⟩, -⟩ := perform_continues hperform
  exact noReset_of_inbox h hinbox

theorem ne_instructionByte_of_isInner {a : Action} (h : isInner a = true) : ∀ b, a ≠ .instructionByte b := by
  rintro b rfl
  simp [isInner] at h

theorem step_withSeq {s : State} {a x : Action} {more : List Action} (hbyte : ∀ b, a ≠ .instructionByte b)
    (hreset : NoReset s) (hsmall : smallSteps s a = x :: more) (op : Instr) (rest : List Action) :
    step (withSeq (.busy op (a :: rest)) s) = toOutcome (perform x (withSeq (.busy op (more ++ rest)) s)) :=
  step_busy rfl hbyte hreset (smallSteps_withSeq _ s a ▸ hsmall)

/-- A busy block does not tell a step from its nested steps. -/
theorem step_smallSteps {s : State} {op : Instr} {a : Action} (hinner : isInner a = true) (hreset : NoReset s)
    (rest : List Action) :
    step (withSeq (.busy op (a :: rest)) s) = step (withSeq (.busy op (smallSteps s a ++ rest)) s) := by
  obtain ⟨x, more, hsmall⟩ := List.exists_cons_of_ne_nil (smallSteps_ne_nil s a)
  have hx : x ∈ smallSteps s a := hsmall ▸ List.mem_cons_self ..
  rw [step_withSeq (ne_instructionByte_of_isInner hinner) hreset hsmall, hsmall, List.cons_append,
    step_withSeq (ne_instructionByte_of_isInner (isInner_of_mem_smallSteps hinner hx)) hreset
      (smallSteps_of_isSmall (isSmall_of_mem_smallSteps hx) s), List.nil_append]

/-- Small inner steps, one after another, are what a busy block performs with them in front. -/
theorem run_of_isSmall {xs : List Action} (hxs : ∀ x ∈ xs, isSmall x = true ∧ isInner x = true) {s t : State}
    (hreset : NoReset s) (h : runActions xs s = .ok t) (op : Instr) (rest : List Action) :
    Host.Core.run core xs.length (withSeq (.busy op (xs ++ rest)) s) = .next (withSeq (.busy op rest) t) := by
  induction xs generalizing s with
  | nil => obtain rfl := Except.ok.inj h; rfl
  | cons x xs ih =>
    obtain ⟨⟨hsmall, hinner⟩, hxs⟩ := List.forall_mem_cons.mp hxs
    rw [runActions] at h
    split at h
    · rename_i m hperform
      have hstep : step (withSeq (.busy op (x :: xs ++ rest)) s) = .next (withSeq (.busy op (xs ++ rest)) m) := by
        rw [List.cons_append, step_withSeq (ne_instructionByte_of_isInner hinner) hreset
          (smallSteps_of_isSmall hsmall s), List.nil_append, perform_withSeq hsmall hinner, hperform]
        rfl
      rw [List.length_cons, run_succ_of_next (M := core) hstep]
      exact ih hxs (noReset_perform hreset hperform) h
    · simp at h

/-- A step in front of a busy block's sequence is performed in as many machine steps as it has small steps. -/
theorem run_smallSteps {a : Action} (hinner : isInner a = true) {s t : State} (hreset : NoReset s)
    (h : perform a s = .ok t) (op : Instr) (rest : List Action) :
    Host.Core.run core (smallSteps s a).length (withSeq (.busy op (a :: rest)) s) =
      .next (withSeq (.busy op rest) t) := by
  have hrun := run_of_isSmall
    (fun x hx => ⟨isSmall_of_mem_smallSteps hx, isInner_of_mem_smallSteps hinner hx⟩) hreset
    ((runActions_smallSteps a s).trans h) op rest
  have hpos : (smallSteps s a).length ≠ 0 := fun hzero => smallSteps_ne_nil s a (List.eq_nil_of_length_eq_zero hzero)
  obtain ⟨n, hn⟩ := Nat.exists_eq_succ_of_ne_zero hpos
  rw [hn] at hrun ⊢
  exact (run_succ_congr (M := core) (step_smallSteps hinner hreset rest) n).trans hrun

/-- The same for a sequence; its small steps may be counted at any state. -/
theorem run_flatMap_smallSteps {as : List Action} (has : ∀ a ∈ as, isInner a = true) {s t : State} (hreset : NoReset s)
    (h : runActions as s = .ok t) (op : Instr) (rest : List Action) (s₀ : State) :
    Host.Core.run core (as.flatMap (smallSteps s₀)).length (withSeq (.busy op (as ++ rest)) s) =
      .next (withSeq (.busy op rest) t) := by
  induction as generalizing s with
  | nil => obtain rfl := Except.ok.inj h; rfl
  | cons a as ih =>
    obtain ⟨ha, has⟩ := List.forall_mem_cons.mp has
    rw [runActions] at h
    split at h
    · rename_i m hperform
      rw [List.flatMap_cons, List.length_append, length_smallSteps s₀ s a, List.cons_append,
        run_add_of_next (run_smallSteps ha hreset hperform op (as ++ rest))]
      exact ih has (noReset_perform hreset hperform) h
    · simp at h

/-- The last step of an operation, taken by a busy block. -/
theorem run_response {a : Action} (ha : isResponse a = true) {s t : State} (hreset : NoReset s)
    (h : perform a s = .ok t) (op : Instr) (s₀ : State) :
    Host.Core.run core (smallSteps s₀ a).length (withSeq (.busy op [a]) s) = .next t := by
  have hsmall : isSmall a = true := by cases a <;> simp_all [isResponse, isSmall]
  have hbyte : ∀ b, a ≠ .instructionByte b := by rintro b rfl; simp [isResponse] at ha
  have hstep : step (withSeq (.busy op [a]) s) = .next t := by
    rw [step_withSeq hbyte hreset (smallSteps_of_isSmall hsmall s), perform_response_withSeq ha, h]
    rfl
  rw [smallSteps_of_isSmall hsmall]
  exact run_succ_of_next (M := core) hstep

/-! ## Operations and command bytes -/

/-- An operation run in one step and the same operation run from the busy state agree (R27). -/
theorem run_operation {i : Instr} (hi : isOperation i = true) {s t : State} (hreset : NoReset s)
    (h : exec i s = .next t) :
    Host.Core.run core ((stepsOf i s).flatMap (smallSteps s)).length (withSeq (.busy i (stepsOf i s)) s) = .next t := by
  rw [exec_request (isCommandByte_of_request (.inl hi))] at h
  obtain ⟨-, -, hrun⟩ := operate_next.mp h
  obtain ⟨body, last, hsteps, hbody, hlast⟩ := stepsOf_eq_append_response hi s
  rw [hsteps] at hrun ⊢
  obtain ⟨m, hm, ht⟩ := runActions_append_ok.mp hrun
  rw [runActions_singleton] at ht
  have hreset' : NoReset (accepted i (body ++ [last]) s) := hreset
  have hresetm : NoReset m := by
    obtain ⟨⟨-, -, hinbox, -⟩, -⟩ := runActions_continues hm
    exact noReset_of_inbox hreset' hinbox
  rw [List.flatMap_append, List.length_append, List.flatMap_singleton]
  have hfirst := run_flatMap_smallSteps hbody hreset' hm i [last] s
  exact (run_add_of_next hfirst).trans (run_response hlast hresetm ht i s)

/-- A command byte in front of a busy block's sequence is sent in seventeen steps (R76 to R78). -/
theorem run_command {op : Instr} {b : Byte} {rest : List Action} {s : State} (hb : b ≠ 0) (hreset : NoReset s)
    (hseq : s.seq = .busy op (.command b :: rest)) :
    Host.Core.run core 17 s = .next (sendCommand b { s with seq := .busy op rest }) := by
  have hlength : (smallSteps s (.command b)).length = 17 := by
    rw [smallSteps, if_neg hb]
    rfl
  have hsame : withSeq (.busy op (.command b :: rest)) s = s := by rw [withSeq, ← hseq]
  have hsend : perform (.command b) s = .ok (sendCommand b s) := by rw [perform, if_neg hb]
  have hrun := run_smallSteps (a := .command b) rfl hreset hsend op rest
  rw [hlength, hsame] at hrun
  exact hrun

theorem busByte_ne_zero {i : Instr} (hi : isCommandByte i = true) : busByte i ≠ 0 := by
  cases i with
  | clearDisplay => decide
  | returnHome x => revert x; decide
  | entryModeSet id sh => revert id sh; decide
  | displayControl d c b => revert d c b; decide
  | cursorDisplayShift sc rl x => revert sc rl x; decide
  | functionSet dl n f x => revert dl n f x; decide
  | setCgramAddress a => revert a; decide
  | setDdramAddress a => revert a; decide
  | _ => simp [isCommandByte] at hi

/-! ## How much one small step does -/

/-- The register writes and waits among events. -/
def accessCount (es : List Event) : Nat := (es.filter isWr).length + (es.filter isWait).length

theorem modifyReg_accessCount {p : PortIx} {r : Reg} {f : Word → Word} {s t : State} (h : modifyReg p r f s = .ok t) :
    ∃ es, t.trace = s.trace ++ es ∧ accessCount es ≤ 1 := by
  obtain ⟨v, ⟨htrace, -⟩ | ⟨-, x, htrace, -⟩⟩ := modifyReg_through h
  · exact ⟨_, htrace, Nat.le_refl 1⟩
  · exact ⟨_, htrace, Nat.le_refl 1⟩

theorem readPin_accessCount {p : PortIx} {n : PinIx} {s t : State} (h : readPin p n s = .ok t) :
    ∃ es, t.trace = s.trace ++ es ∧ accessCount es ≤ 1 := by
  obtain ⟨es, ⟨htrace, -⟩, hread⟩ := readPin_appends h
  have hwr : es.filter isWr = [] := List.filter_eq_nil_iff.mpr fun e he => by
    obtain ⟨v, rfl⟩ := hread e he
    simp [isWr]
  have hwait : es.filter isWait = [] := List.filter_eq_nil_iff.mpr fun e he => by
    obtain ⟨v, rfl⟩ := hread e he
    simp [isWait]
  exact ⟨es, htrace, by simp [accessCount, hwr, hwait]⟩

/-- A small step is at most one register write or one wait (R27). -/
theorem perform_accessCount {a : Action} (hsmall : isSmall a = true) (hbyte : ∀ b, a ≠ .instructionByte b) {s t : State}
    (h : perform a s = .ok t) : ∃ es, t.trace = s.trace ++ es ∧ accessCount es ≤ 1 := by
  cases a <;> simp only [perform] at h
  case clearField | setField | toggle => exact modifyReg_accessCount h
  case readLevel => exact readPin_accessCount h
  case writeLevel p n l => exact ⟨[.wr p .bsr (bsrWord n l)], Except.ok.inj h ▸ rfl, Nat.le_refl 1⟩
  case drive r l => exact ⟨[driveEvent s.lpd.lmap r l], Except.ok.inj h ▸ rfl, Nat.le_refl 1⟩
  case wait d => exact ⟨[.wait d], Except.ok.inj h ▸ rfl, Nat.le_refl 1⟩
  case command b =>
    obtain rfl : b = 0 := by simpa [isSmall] using hsmall
    simp at h
  case instructionByte b => exact absurd rfl (hbyte b)
  case latch | selectFourBit | entryMode | cursor | advance | initDone | respond =>
    exact ⟨[], by rw [← Except.ok.inj h, List.append_nil]; rfl, Nat.zero_le 1⟩
  case fieldWrite | nibble | data | setupPin => simp [isSmall] at hsmall

theorem ne_instructionByte_of_mem_smallSteps {s : State} {a x : Action} (ha : ∀ b, a ≠ .instructionByte b)
    (h : x ∈ smallSteps s a) : ∀ b, x ≠ .instructionByte b := by
  by_cases hinner : isInner a = true
  · exact ne_instructionByte_of_isInner (isInner_of_mem_smallSteps hinner h)
  · have hself : smallSteps s a = [a] := smallSteps_of_isSmall (by cases a <;> simp_all [isInner, isSmall]) s
    obtain rfl := List.mem_singleton.mp (hself ▸ h)
    exact ha

theorem step_busy_accessCount {s t : State} {op : Instr} {a : Action} {rest : List Action} (hreset : NoReset s)
    (hseq : s.seq = .busy op (a :: rest)) (hbyte : ∀ b, a ≠ .instructionByte b) (h : step s = .next t) :
    ∃ es, t.trace = s.trace ++ es ∧ accessCount es ≤ 1 := by
  obtain ⟨x, more, hsmall⟩ := List.exists_cons_of_ne_nil (smallSteps_ne_nil s a)
  have hx : x ∈ smallSteps s a := hsmall ▸ List.mem_cons_self ..
  rw [step_busy hseq hbyte hreset hsmall] at h
  have hcount := perform_accessCount (isSmall_of_mem_smallSteps hx) (ne_instructionByte_of_mem_smallSteps hbyte hx)
    (toOutcome_next h)
  exact hcount

/-- Settles O52: a busy block performs the nested steps of its sequence one by one, no step but the last looks at the
sequencer or moves it, and the last overwrites it. -/
theorem smallStepsGiveBigStep : Obligations.SmallStepsGiveBigStep := by
  refine ⟨?operation, ?command, ?instructionByte, ?count⟩
  case operation => exact fun i s t hi hreset h => run_operation hi hreset h
  case command => exact fun op b rest s hb hreset hseq => run_command hb hreset hseq
  case instructionByte =>
    intro i op rest s hi hreset hseq hready
    have hsend : exec i { s with seq := .busy op rest } =
        .next (sendCommand (busByte i) { s with seq := .busy op rest }) := by
      rw [exec_commandByte hi, transmit, if_pos]
      exact linesClocked_iff.mpr hready
    exact (run_command (busByte_ne_zero hi) hreset hseq).trans hsend.symm
  case count => exact fun op a rest s t hreset hseq hbyte h => step_busy_accessCount hreset hseq hbyte h

end Sys2Proof.Machine

/-! PROOFS. The register map, what a read and a write of one register do, and the law of the field update
(spec/10_state.md R11, R16, R18, R23; spec/20_memory.md R35, R36, R39 to R42). -/

namespace Sys2Proof.Machine

/-! ## The register map -/

/-- The ten registers in the order of R11. -/
def regsInOrder : List Reg := [.mode, .otype, .speed, .pull, .idata, .odata, .bsr, .lock, .afl, .afh]

theorem regsInOrder_regIndex (r : Reg) : regsInOrder[regIndex r]? = some r := by cases r <;> rfl

theorem regIndex_injective : Function.Injective regIndex := fun r r' h =>
  Option.some.inj ((regsInOrder_regIndex r).symm.trans (h ▸ regsInOrder_regIndex r'))

theorem regOffset_injective : Function.Injective regOffset := fun _ _ h =>
  regIndex_injective (Nat.eq_of_mul_eq_mul_left (by decide) h)

theorem regAddress_of_base {c : Cfg} {p : PortIx} {base : Nat} (h : c.portBase[p.toNat]? = some base) (r : Reg) :
    regAddress c p r = some (base + regOffset r) := by
  rw [regAddress, h]
  rfl

/-- Pins 0 to 7 have their alternate-function field in the low half-register (R20, R39). -/
theorem afReg_offAf_low {n : PinIx} (h : n.toNat ≤ 7) : afReg n = .afl ∧ offAf n = 4 * n.toNat :=
  ⟨if_pos h, if_pos h⟩

/-- Pins 8 to 15 have their alternate-function field in the high half-register (R21, R39). -/
theorem afReg_offAf_high {n : PinIx} (h : 8 ≤ n.toNat) : afReg n = .afh ∧ offAf n = 4 * (n.toNat - 8) :=
  ⟨if_neg (by omega), if_neg (by omega)⟩

theorem offAf_fits (n : PinIx) : offAf n + 4 ≤ 32 := by
  have := n.isLt
  unfold offAf
  split_ifs <;> omega

/-- Settles O15: the offset of a register determines its place in the order of R11, and a pin index is below 16. -/
theorem registerMap : Obligations.RegisterMap := by
  refine ⟨rfl, fun c p base hbase r => ⟨regAddress_of_base hbase r, fun r' heq => ?_⟩, fun n => ?_⟩
  · rw [regAddress_of_base hbase, regAddress_of_base hbase] at heq
    exact regOffset_injective (Nat.add_left_cancel (Option.some.inj heq))
  · have hn := n.isLt
    refine ⟨rfl, ?_, rfl, ?_, offAf_fits n, afReg_offAf_low, afReg_offAf_high⟩
    · unfold off2; omega
    · unfold off1; omega

/-! ## Reading a register -/

/-- Every register but `IDATA` and `BSR` holds storage (R11). -/
theorem stored_eq_some {r : Reg} (hidata : r ≠ .idata) (hbsr : r ≠ .bsr) (q : Port) : ∃ a, q.stored r = some a := by
  cases r with
  | idata => exact absurd rfl hidata
  | bsr => exact absurd rfl hbsr
  | _ => exact ⟨_, rfl⟩

theorem ne_bsr_of_stored {q : Port} {r : Reg} {a : Word} (h : q.stored r = some a) : r ≠ .bsr := by
  rintro rfl
  simp [Port.stored] at h

theorem drawPad_of_cons {s : State} {v : BitVec 16} {rest : List (BitVec 16)} (h : s.pads = v :: rest) (p : PortIx) :
    drawPad p s = (v, { s with pads := rest }) := by
  rw [drawPad, h]

theorem drawPad_of_nil {s : State} (h : s.pads = []) (p : PortIx) :
    drawPad p s = (Config.padIn s.freeIx p, { s with freeIx := s.freeIx + 1 }) := by
  rw [drawPad, h]

/-- A read of `IDATA` answers the level drawn and appends the event that says so (R16, R40). -/
theorem regRead_idata {p : PortIx} {s m : State} {v : BitVec 16} (h : drawPad p s = (v, m)) :
    regRead p .idata s = .ok (v.zeroExtend 32, emit (.rdi p v) m) := by
  rw [regRead, h]

/-- Settles O11: storage is answered as it is, `BSR` is refused, and `IDATA` answers what is drawn from the pad queue
or, behind its end, from the free values. -/
theorem regReadEffect : Obligations.RegReadEffect := by
  intro p s
  refine ⟨fun r hidata hbsr => ?stored, rfl, fun v rest hpads => ?queue, fun hpads => ?free⟩
  case stored =>
    obtain ⟨a, ha⟩ := stored_eq_some hidata hbsr (port s p)
    exact ⟨a, ha, regRead_stored ha⟩
  case queue => exact regRead_idata (drawPad_of_cons hpads p)
  case free => exact regRead_idata (drawPad_of_nil hpads p)

/-! ## Writing a register -/

theorem samePortBut_write {r : Reg} (hbsr : r ≠ .bsr) (q : Port) (v : Word) : samePortBut [r] q (q.write r v) :=
  fun _ hne => stored_write_ne (List.ne_of_not_mem_cons hne) hbsr v

/-- A write to `BSR` changes `ODATA` alone (R18, R41). -/
theorem samePortBut_write_bsr (q : Port) (v : Word) : samePortBut [.odata] q (q.write .bsr v) := by
  intro r hne
  cases r with
  | odata => exact absurd (List.mem_singleton_self _) hne
  | _ => rfl

/-- Settles O12: the write is one event and one port replaced; which register of the port changes is `Port.write`. -/
theorem regWriteEffect : Obligations.RegWriteEffect := by
  rintro p r v s t rfl
  refine ⟨rfl, fun p' hne => port_regWrite_ne hne r v s, ?_⟩
  rw [port_regWrite_same]
  refine ⟨fun hidata hbsr => ?storage, ?idata, ?bsr⟩
  case storage =>
    obtain ⟨a, ha⟩ := stored_eq_some hidata hbsr (port s p)
    exact ⟨stored_write_same ha, samePortBut_write hbsr _ v⟩
  case idata => rintro rfl; rfl
  case bsr =>
    rintro rfl
    exact ⟨samePortBut_write_bsr _ v, applyBsr_getLsbD (port s p).odata v⟩

/-! ## The field update -/

/-- Of two writes to one register that takes whole words, the second is all that stays (R41). -/
theorem write_write {r : Reg} (hbsr : r ≠ .bsr) (q : Port) (v v' : Word) : (q.write r v).write r v' = q.write r v' := by
  cases r with
  | bsr => exact absurd rfl hbsr
  | _ => rfl

/-- A field update leaves the port with the one register written to its final value (R42). -/
theorem port_after_fieldEvents {r : Reg} (hbsr : r ≠ .bsr) (p : PortIx) (off w : Nat) (val a : Word) (s : State) :
    port (after (fieldEvents p r off w val a) s) p = (port s p).write r (fieldSet off val (fieldClear off w a)) := by
  rw [port, after_ports, portAt_fieldEvents, write_write hbsr]
  rfl

theorem port_after_fieldEvents_ne {p p' : PortIx} (h : p' ≠ p) (r : Reg) (off w : Nat) (val a : Word) (s : State) :
    port (after (fieldEvents p r off w val a) s) p' = port s p' :=
  portAt_fieldEvents_ne h s.ports r off w val a

/-- The register of a field update holds the updated value (R42). -/
theorem stored_after_fieldEvents {p : PortIx} {r : Reg} {s : State} {a : Word} (h : (port s p).stored r = some a)
    (off w : Nat) (val : Word) :
    (port (after (fieldEvents p r off w val a) s) p).stored r = some (fieldSet off val (fieldClear off w a)) := by
  rw [port_after_fieldEvents (ne_bsr_of_stored h)]
  exact stored_write_same h

section
variable {off w : Nat} {val : Word} (hfit : off + w ≤ 32) (hval : val.toNat < 2 ^ w)
include hfit hval

/-- A field update keeps the bits outside the field (R42). -/
theorem fieldSet_clear_outside (a : Word) {i : Nat} (hi : i < off ∨ off + w ≤ i) :
    (fieldSet off val (fieldClear off w a)).getLsbD i = a.getLsbD i := by
  rw [fieldSet_clear_getLsbD hfit hval, if_neg (by omega)]

/-- The final value of a field update does not depend on the old value of the field (R42). -/
theorem fieldSet_clear_congr {a a' : Word} (h : ∀ i, (i < off ∨ off + w ≤ i) → a'.getLsbD i = a.getLsbD i) :
    fieldSet off val (fieldClear off w a') = fieldSet off val (fieldClear off w a) := by
  apply BitVec.eq_of_getLsbD_eq
  intro i _
  simp only [fieldSet_clear_getLsbD hfit hval]
  split_ifs with hi
  · rfl
  · exact h i (by omega)

/-- A second field update with the same value leaves the ports as the first left them (R42). -/
theorem ports_after_fieldEvents_twice {r : Reg} (hbsr : r ≠ .bsr) (p : PortIx) (a : Word) (s : State) :
    (after (fieldEvents p r off w val (fieldSet off val (fieldClear off w a)))
      (after (fieldEvents p r off w val a) s)).ports = (after (fieldEvents p r off w val a) s).ports := by
  refine ports_ext fun p' => ?_
  by_cases hp : p' = p
  · subst hp
    refine (port_after_fieldEvents hbsr ..).trans ?_
    rw [port_after_fieldEvents hbsr, write_write hbsr, fieldSet_twice hfit hval]
    exact (port_after_fieldEvents hbsr ..).symm
  · exact port_after_fieldEvents_ne hp ..

end

/-- Settles O13: a field update of a register that holds a value is its two writes, and its final value is the old one
with the bits of the field replaced. -/
theorem fieldWriteLaw : Obligations.FieldWriteLaw := by
  intro p r off w val a s ha hfit hval
  have hbsr := ne_bsr_of_stored ha
  have hstored := stored_after_fieldEvents ha off w val
  refine ⟨_, fieldWrite_after off w val ha, rfl, rfl, hstored, ?registers, fun p' hne => port_after_fieldEvents_ne hne ..,
    ?bits, ⟨_, fieldWrite_after off w val hstored, ports_after_fieldEvents_twice hfit hval hbsr p a s⟩, ?oldValue⟩
  case registers =>
    rw [port_after_fieldEvents hbsr]
    exact samePortBut_write hbsr (port s p) _
  case bits =>
    intro b hb
    obtain rfl := Option.some.inj (hstored.symm.trans hb)
    exact ⟨fieldGet_fieldSet hfit hval a, fun i => fieldSet_clear_outside hfit hval a⟩
  case oldValue =>
    intro s' a' t' ha' hagree ht'
    obtain rfl := Except.ok.inj ((fieldWrite_after off w val ha').symm.trans ht')
    rw [hstored, stored_after_fieldEvents ha', fieldSet_clear_congr hfit hval hagree]

end Sys2Proof.Machine

/-! PROOFS. Every access of an instruction is to a port that exists and has its clock on (spec/10_state.md R22;
spec/20_memory.md R47; spec/40_gpio_ops.md R68; spec/42_lcd_init.md R82; spec/43_lcd_ops.md R93). -/

namespace Sys2Proof.Machine

/-- The port an event writes or samples exists and has its clock on in `s` (R22, R47). -/
def isClocked (s : State) : Event → Prop
  | .wr p _ _ | .rdi p _ => clockOn s p = true
  | .wait _ => True

theorem isClocked_of_accesses {s : State} {p : PortIx} (hp : clockOn s p = true) {r : Reg} {e : Event}
    (h : accesses p r e) : isClocked s e := by
  cases e with
  | wr | rdi => obtain ⟨rfl, -⟩ := h; exact hp
  | wait => trivial

theorem clockOn_of_linesReady {s : State} {m : LineMap} (hm : LinesReady s m) (r : Role) :
    clockOn s (m.pin r).port = true :=
  clockOn_iff.mpr (hm r (by cases r <;> decide))

theorem isClocked_of_isBusEvent {s : State} {m : LineMap} (hm : LinesReady s m) {e : Event} (h : isBusEvent m e) :
    isClocked s e := by
  obtain ⟨r, l, rfl⟩ | ⟨d, rfl⟩ := h
  · exact clockOn_of_linesReady hm r
  · trivial

/-! ## The operations on a port -/

/-- The steps that access port `p` or no port at all. -/
def isPortAction (p : PortIx) : Action → Bool
  | .fieldWrite q _ _ _ _ | .clearField q _ _ _ | .setField q _ _ _ | .writeLevel q _ _ | .readLevel q _
  | .toggle q _ => q == p
  | .respond _ _ => true
  | .drive _ _ | .wait _ | .nibble _ | .command _ | .instructionByte _ | .data _ | .latch | .setupPin _
  | .selectFourBit | .entryMode _ _ | .cursor _ _ | .advance | .initDone => false

theorem isClocked_of_isPortAction {s : State} {p : PortIx} (hp : clockOn s p = true) {a : Action}
    (ha : isPortAction p a = true) (m : LineMap) (e : Event) (h : mayAppend m a e) : isClocked s e := by
  cases a <;> simp only [isPortAction, beq_iff_eq, Bool.false_eq_true] at ha
  case fieldWrite | clearField | setField | toggle => exact isClocked_of_accesses (ha ▸ hp) h
  case writeLevel => exact h ▸ ha ▸ hp
  case readLevel => obtain ⟨v, rfl⟩ := h; exact ha ▸ hp
  case respond => exact h.elim

/-- A PRM operation accesses the port it names and no other (R69 to R72). -/
theorem stepsOf_isPortAction {i : Instr} {p : PortIx} (hi : prmPort i = some p) (s : State) :
    ∀ a ∈ stepsOf i s, isPortAction p a = true := by
  cases i with
  | gpioConfigure d =>
    cases d with
    | none => simp [prmPort] at hi
    | some d =>
      obtain rfl := Option.some.inj hi
      by_cases hmode : d.mode = 0b10#2 <;> simp [stepsOf, configureSteps, hmode, isPortAction]
  | gpioWrite | gpioRead | gpioToggle =>
    obtain rfl := Option.some.inj hi
    simp [stepsOf, isPortAction]
  | _ => simp [prmPort] at hi

/-- An accepted PRM operation names a port that exists and has its clock on (R68). -/
theorem clockOn_of_checks {i : Instr} {p : PortIx} (hi : prmPort i = some p) {s : State}
    (h : firstRefusal (checksOf i s) = none) : clockOn s p = true := by
  cases i with
  | gpioConfigure d =>
    cases d with
    | none => simp [prmPort] at hi
    | some d =>
      obtain rfl := Option.some.inj hi
      obtain ⟨hexists, -, hclock⟩ := configureChecks_none.mp h
      exact clockOn_iff.mpr ⟨hexists, hclock⟩
  | gpioWrite | gpioRead | gpioToggle =>
    obtain rfl := Option.some.inj hi
    exact clockOn_iff.mpr (portChecks_none.mp h)
  | _ => simp [prmPort] at hi

/-! ## The operations on the display -/

/-- An LCD operation drives the latched lines and nothing else (R93 to R98). -/
theorem runActions_lcdOperation_isClocked {i : Instr} (hi : isLcdOperation i = true) {s t : State}
    (hlines : LinesReady s s.lpd.lmap) (h : runActions (stepsOf i s) (accepted i (stepsOf i s) s) = .ok t) :
    Appends (isClocked s) s t := by
  have haccepted : Appends (isClocked s) s (accepted i (stepsOf i s) s) := .of_eq rfl rfl
  obtain ⟨hbus, -⟩ := runActions_onlyBusAndCursor (stepsOf_isLcdAction hi s) h
  exact haccepted.trans (hbus.mono fun _ => isClocked_of_isBusEvent hlines)

/-- The steps that reach ports only by the line map and leave that map alone. -/
def isLineAction : Action → Bool
  | .setupPin _ | .selectFourBit | .entryMode _ _ | .initDone => true
  | a => isLcdAction a

theorem isClocked_of_isLineAction {a : Action} (ha : isLineAction a = true) {s : State} {m : LineMap}
    (hm : LinesReady s m) {e : Event} (h : mayAppend m a e) : isClocked s e := by
  cases a <;> simp only [isLineAction, isLcdAction, Bool.false_eq_true] at ha
  case setupPin role =>
    obtain ⟨r, -, he⟩ := h
    exact isClocked_of_accesses (clockOn_of_linesReady hm role) he
  case drive | wait | nibble | command | instructionByte | data => exact isClocked_of_isBusEvent hm h
  case selectFourBit | entryMode | cursor | advance | initDone | respond => exact h.elim

/-- On the lines of the configuration a line action leaves the line map as it is (R25, R83). -/
theorem perform_lmap_of_isLineAction {a : Action} (ha : isLineAction a = true) {s t : State}
    (hmap : s.lpd.lmap = s.cfg.linemap) (h : perform a s = .ok t) : t.lpd.lmap = s.lpd.lmap := by
  cases hlcd : isLcdAction a with
  | true =>
    obtain ⟨-, -, -, hlpd⟩ := perform_onlyBusAndCursor hlcd h
    rw [hlpd]
  | false =>
    cases a <;> simp only [isLineAction, hlcd, Bool.false_eq_true] at ha
    case setupPin role =>
      rw [perform_setupPin role s hmap] at h
      exact Except.ok.inj h ▸ rfl
    case selectFourBit | entryMode | initDone => exact Except.ok.inj h ▸ rfl

/-- `t` is reached from `s` by accesses to ports whose clocks are on, and its lines are those of the configuration. -/
def OnConfiguredLines (s t : State) : Prop :=
  Appends (isClocked s) s t ∧ t.cfg = s.cfg ∧ t.lpd.lmap = s.cfg.linemap

theorem perform_onConfiguredLines {a : Action} (ha : isLineAction a = true) {s m t : State}
    (hlines : LinesReady s s.cfg.linemap) (hm : OnConfiguredLines s m) (h : perform a m = .ok t) :
    OnConfiguredLines s t := by
  obtain ⟨happends, hcfg, hmap⟩ := hm
  obtain ⟨⟨hcfg', -⟩, -⟩ := perform_continues h
  have hstep : Appends (isClocked s) m t :=
    (perform_appends h).mono fun _ => isClocked_of_isLineAction ha (hmap ▸ hlines)
  have hmap' : t.lpd.lmap = m.lpd.lmap := perform_lmap_of_isLineAction ha (hmap.trans (hcfg ▸ rfl)) h
  exact ⟨happends.trans hstep, hcfg'.trans hcfg, hmap'.trans hmap⟩

theorem initSteps_eq_latch_cons : initSteps = .latch :: initSteps.tail := rfl

theorem initSteps_tail_isLineAction : ∀ a ∈ initSteps.tail, isLineAction a = true := by decide

/-- `LCD_INIT` takes the lines of the configuration before it drives one (R82, R83). -/
theorem runActions_initSteps_isClocked {s t : State} (hlines : LinesReady s s.cfg.linemap)
    (h : runActions initSteps (accepted .lcdInit initSteps s) = .ok t) : Appends (isClocked s) s t := by
  have hlatched : OnConfiguredLines s (latchConfig (accepted .lcdInit initSteps s)) := ⟨.of_eq rfl rfl, rfl, rfl⟩
  have htail : runActions initSteps.tail (latchConfig (accepted .lcdInit initSteps s)) = .ok t := h
  obtain ⟨happends, -⟩ := runActions_induction (P := OnConfiguredLines s)
    (fun a ha _ _ hperform hm => perform_onConfiguredLines (initSteps_tail_isLineAction a ha) hlines hm hperform)
    htail hlatched
  exact happends

/-! ## Every instruction -/

/-- A request that passes its checks accesses only ports that exist and have their clocks on (R47). -/
theorem runActions_stepsOf_isClocked {i : Instr} {s t : State} (hchecks : firstRefusal (checksOf i s) = none)
    (h : runActions (stepsOf i s) (accepted i (stepsOf i s) s) = .ok t) : Appends (isClocked s) s t := by
  have haccepted : Appends (isClocked s) s (accepted i (stepsOf i s) s) := .of_eq rfl rfl
  cases hport : prmPort i with
  | some p =>
    have hp := clockOn_of_checks hport hchecks
    exact haccepted.trans
      (runActions_appends (fun a ha => isClocked_of_isPortAction hp (stepsOf_isPortAction hport s a ha)) h)
  | none =>
    cases i with
    | gpioConfigure d =>
      cases d with
      | none => exact Except.ok.inj h ▸ .of_eq rfl rfl
      | some d => simp [prmPort] at hport
    | gpioWrite | gpioRead | gpioToggle => simp [prmPort] at hport
    | lcdInit => exact runActions_initSteps_isClocked (initChecks_none.mp hchecks) h
    | lcdClear | lcdHome | lcdSetCursor | lcdPrintChar | lcdPrintString =>
      obtain ⟨-, hlines⟩ := lcdChecks_none.mp hchecks
      exact runActions_lcdOperation_isClocked rfl hlines h
    | _ => exact Except.ok.inj h ▸ haccepted

theorem exec_isClocked {i : Instr} {s t : State} (h : exec i s = .next t) : Appends (isClocked s) s t := by
  obtain ⟨-, hchecks, hrun⟩ | ⟨-, hlines, rfl⟩ := exec_next h
  · exact runActions_stepsOf_isClocked hchecks hrun
  · exact appends_after (fun e he => isClocked_of_isBusEvent hlines (isBusEvent_of_mem_commandEvents e he)) s

/-- Settles O55: a PRM operation is checked on the port it names, `LCD_INIT` on the configured lines it then latches,
what drives the latched lines on these; and no step reaches another port. -/
theorem accessesHaveTheirClock : Obligations.AccessesHaveTheirClock := by
  intro i s t es h htrace p haccess
  obtain ⟨-, hclocked⟩ := (exec_isClocked h).events htrace
  have hp : clockOn s p = true := by
    obtain ⟨r, v, he⟩ | ⟨v, he⟩ := haccess
    · exact hclocked _ he
    · exact hclocked _ he
  exact clockOn_iff.mp hp

end Sys2Proof.Machine


/-! PROOFS. Words and bytes as the fields they are made of, and each form of the encoding tables in those terms
(spec/30_encoding.md R51 to R60). -/

namespace Sys2Proof

/-! ## Concatenation and fields -/

/-- A field is `hi` and then `lo` exactly when its two parts are. -/
theorem extractLsb'_eq_append_iff {a b n s : Nat} {hi : BitVec a} {lo : BitVec b} {w : BitVec n} :
    w.extractLsb' s (a + b) = hi ++ lo ↔ w.extractLsb' (s + b) a = hi ∧ w.extractLsb' s b = lo := by
  rw [← BitVec.extractLsb'_append_extractLsb'_eq_extractLsb' (start₂ := s + b) rfl]
  constructor
  · intro h
    constructor
    · simpa [BitVec.extractLsb'_append_eq_of_le] using congrArg (BitVec.extractLsb' b a) h
    · simpa [BitVec.extractLsb'_append_eq_of_add_le] using congrArg (BitVec.extractLsb' 0 b) h
  · rintro ⟨rfl, rfl⟩
    rfl

theorem append_eq_iff {a b : Nat} {hi : BitVec a} {lo : BitVec b} {w : BitVec (a + b)} :
    hi ++ lo = w ↔ w.extractLsb' b a = hi ∧ w.extractLsb' 0 b = lo := by
  have := extractLsb'_eq_append_iff (hi := hi) (lo := lo) (w := w) (s := 0)
  rwa [BitVec.extractLsb'_eq_self, Nat.zero_add, eq_comm] at this

/-- Masking acts on each part. -/
theorem and_append_eq_append_iff {a b : Nat} {m hi : BitVec a} {k lo : BitVec b} {w : BitVec (a + b)} :
    w &&& (m ++ k) = hi ++ lo ↔ w.extractLsb' b a &&& m = hi ∧ w.extractLsb' 0 b &&& k = lo := by
  obtain ⟨hm, hk⟩ := append_eq_iff.mp (rfl : m ++ k = m ++ k)
  rw [eq_comm, append_eq_iff, BitVec.extractLsb'_and, BitVec.extractLsb'_and, hm, hk]

theorem extractLsb'_one {n s : Nat} {w : BitVec n} : w.extractLsb' s 1 = BitVec.ofBool (w.getLsbD s) := by
  ext i hi
  obtain rfl : i = 0 := by omega
  simp

theorem extractLsb'_eq_one_iff {m k : Nat} {v : BitVec m} : v.extractLsb' k 1 = 1#1 ↔ v.getLsbD k = true :=
  extractLsb'_one ▸ BitVec.ofBool_eq_iff_eq (b' := true)

theorem lowZero_iff {n : Nat} {w : Word} : lowZero n w = true ↔ w.extractLsb' 0 n = 0#n := beq_iff_eq

/-! ## Request words (R51) -/

section
variable {w : Word}

theorem configureWord_eq_iff {d : Descriptor} :
    encodeDescriptor d = w ↔
      reqOpc w = 0x1#4 ∧ reqBit19 w = true ∧ reqDescriptor w = d ∧ lowZero 8 w = true := by
  obtain ⟨port, pin, mode, otype, speed, pull, af⟩ := d
  have hpresent : w.extractLsb' 19 1 = 1#1 ↔ reqBit19 w = true := extractLsb'_eq_one_iff
  rw [encodeDescriptor, append_eq_iff]
  repeat rw [extractLsb'_eq_append_iff]
  simp only [Nat.reduceAdd, hpresent, lowZero_iff, reqDescriptor, Descriptor.mk.injEq, reqOpc, reqPort, reqPin]
  tauto

theorem writeWord_eq_iff {p : PortIx} {n : PinIx} {l : Level} :
    0x2#4 ++ p ++ n ++ BitVec.ofBool l ++ 0#19 = w ↔
      reqOpc w = 0x2#4 ∧ reqPort w = p ∧ reqPin w = n ∧ reqBit19 w = l ∧ lowZero 19 w = true := by
  rw [append_eq_iff]
  repeat rw [extractLsb'_eq_append_iff]
  rw [extractLsb'_one, BitVec.ofBool_eq_iff_eq, lowZero_iff]
  simp only [and_assoc]
  rfl

theorem pinWord_eq_iff {o : BitVec 4} {p : PortIx} {n : PinIx} :
    o ++ p ++ n ++ 0#20 = w ↔ reqOpc w = o ∧ reqPort w = p ∧ reqPin w = n ∧ lowZero 20 w = true := by
  rw [append_eq_iff]
  repeat rw [extractLsb'_eq_append_iff]
  simp only [and_assoc, lowZero_iff]
  rfl

theorem opcodeWord_eq_iff {o : BitVec 4} {x : BitVec 28} : o ++ x = w ↔ reqOpc w = o ∧ w.extractLsb' 0 28 = x :=
  append_eq_iff

theorem cursorWord_eq_iff {row col : Byte} :
    0xB#4 ++ row ++ col ++ 0#12 = w ↔
      reqOpc w = 0xB#4 ∧ w.extractLsb' 20 8 = row ∧ w.extractLsb' 12 8 = col ∧ lowZero 12 w = true := by
  rw [append_eq_iff]
  repeat rw [extractLsb'_eq_append_iff]
  simp only [and_assoc, lowZero_iff]
  rfl

theorem charWord_eq_iff {c : Byte} :
    0xC#4 ++ c ++ 0#20 = w ↔ reqOpc w = 0xC#4 ∧ w.extractLsb' 20 8 = c ∧ lowZero 20 w = true := by
  rw [append_eq_iff, extractLsb'_eq_append_iff]
  simp only [and_assoc, lowZero_iff]
  rfl

theorem stringWord_eq_iff {len : BitVec 16} :
    0xD#4 ++ len ++ 0#12 = w ↔ reqOpc w = 0xD#4 ∧ reqLen w = len ∧ lowZero 12 w = true := by
  rw [append_eq_iff, extractLsb'_eq_append_iff]
  simp only [and_assoc, lowZero_iff]
  rfl

end

/-! ## LCD instruction bytes (R59, R60) -/

section
variable {b : Byte}

/-- A field is 1 exactly when its top bit is 0 and the field below that bit is 1. -/
theorem extractLsb'_eq_one_succ_iff {m k n : Nat} {v : BitVec m} :
    v.extractLsb' k (n + 2) = 1#(n + 2) ↔
      ¬ v.getLsbD (k + (n + 1)) = true ∧ v.extractLsb' k (n + 1) = 1#(n + 1) := by
  constructor
  · intro h
    have hbit (i : Nat) := congrArg (fun u => u.getLsbD i) h
    refine ⟨by simpa using hbit (n + 1), BitVec.eq_of_getLsbD_eq fun i hi => ?_⟩
    simpa [hi, Nat.lt_succ_of_lt hi] using hbit i
  · rintro ⟨htop, hbelow⟩
    refine BitVec.eq_of_getLsbD_eq fun i hi => ?_
    have hbit := congrArg (fun u => u.getLsbD i) hbelow
    obtain rfl | hlt := Nat.eq_or_lt_of_le (Nat.le_of_lt_succ hi)
    · simpa using htop
    · simpa [hi, hlt] using hbit

/-- A mask of the high `a` bits picks the field they are. -/
theorem and_highMask_eq_iff {a k : Nat} {v : BitVec (a + k)} {p : BitVec a} :
    v &&& (BitVec.allOnes a ++ 0#k) = p ++ 0#k ↔ v.extractLsb' k a = p := by
  simp [and_append_eq_append_iff]

theorem returnHomeByte_eq_iff {x : BitVec 1} :
    0x01#7 ++ x = b ↔ b.extractLsb' 1 7 = 1#7 ∧ b.extractLsb' 0 1 = x :=
  append_eq_iff

theorem entryModeByte_eq_iff {id sh : BitVec 1} :
    0x01#6 ++ id ++ sh = b ↔ b.extractLsb' 2 6 = 1#6 ∧ b.extractLsb' 1 1 = id ∧ b.extractLsb' 0 1 = sh := by
  rw [append_eq_iff, extractLsb'_eq_append_iff, and_assoc]

theorem displayControlByte_eq_iff {d c k : BitVec 1} :
    0x01#5 ++ d ++ c ++ k = b ↔
      b.extractLsb' 3 5 = 1#5 ∧ b.extractLsb' 2 1 = d ∧ b.extractLsb' 1 1 = c ∧ b.extractLsb' 0 1 = k := by
  rw [append_eq_iff, extractLsb'_eq_append_iff, extractLsb'_eq_append_iff, and_assoc, and_assoc]

theorem shiftByte_eq_iff {sc rl : BitVec 1} {x : BitVec 2} :
    0x1#4 ++ sc ++ rl ++ x = b ↔
      b.extractLsb' 4 4 = 1#4 ∧ b.extractLsb' 3 1 = sc ∧ b.extractLsb' 2 1 = rl ∧ b.extractLsb' 0 2 = x := by
  rw [append_eq_iff, extractLsb'_eq_append_iff, extractLsb'_eq_append_iff, and_assoc, and_assoc]

theorem functionSetByte_eq_iff {dl n f : BitVec 1} {x : BitVec 2} :
    0x1#3 ++ dl ++ n ++ f ++ x = b ↔
      b.extractLsb' 5 3 = 1#3 ∧ b.extractLsb' 4 1 = dl ∧ b.extractLsb' 3 1 = n ∧ b.extractLsb' 2 1 = f ∧
        b.extractLsb' 0 2 = x := by
  rw [append_eq_iff, extractLsb'_eq_append_iff, extractLsb'_eq_append_iff, extractLsb'_eq_append_iff, and_assoc,
    and_assoc, and_assoc]

theorem cgramByte_eq_iff {a : BitVec 6} : 0x1#2 ++ a = b ↔ b.extractLsb' 6 2 = 1#2 ∧ b.extractLsb' 0 6 = a :=
  append_eq_iff

theorem ddramByte_eq_iff {a : BitVec 7} : 0x1#1 ++ a = b ↔ b.extractLsb' 7 1 = 1#1 ∧ b.extractLsb' 0 7 = a :=
  append_eq_iff

end

end Sys2Proof

/-! PROOFS. The decoder of request words: what each arm accepts, and that it inverts the encoder
(spec/30_encoding.md R51 to R57). -/

namespace Sys2Proof

section
variable {w : Word} {stream rest : List Byte} {z : Nat} {i j : Instr}

/-! ## What an arm of the decoder accepts -/

theorem oneWord_eq_ok_iff :
    oneWord z w stream i = .ok (j, rest) ↔ lowZero z w = true ∧ i = j ∧ stream = rest := by
  unfold oneWord
  split <;> simp_all

theorem stringRequest_eq_ok_iff :
    stringRequest w stream = .ok (i, rest) ↔
      lowZero 12 w = true ∧
        ∃ str, str.length = (reqLen w).toNat ∧ .lcdPrintString str = i ∧ stream = str ++ rest := by
  unfold stringRequest
  constructor
  · intro h
    split_ifs at h with hzero hlen
    obtain ⟨rfl, rfl⟩ := Prod.mk.inj (Except.ok.inj h)
    exact ⟨hzero, _, List.length_take_of_le hlen, rfl, (List.take_append_drop ..).symm⟩
  · rintro ⟨hzero, str, hlen, rfl, rfl⟩
    simp [hzero, ← hlen]

theorem oneWord_ne_reservedBits_iff : oneWord z w stream i ≠ .error .reservedBits ↔ lowZero z w = true := by
  unfold oneWord
  split <;> simp_all

theorem stringRequest_ne_reservedBits_iff :
    stringRequest w stream ≠ .error .reservedBits ↔ lowZero 12 w = true := by
  unfold stringRequest
  split_ifs <;> simp_all

/-! ## Decoding what the encoder wrote -/

theorem decodeRequest_of_encode {bytes : List Byte} (hwf : i.wellFormed = true) (h : encode i = .request w bytes)
    (more : List Byte) : decodeRequest w (bytes ++ more) = .ok (i, more) := by
  cases i with
  | gpioConfigure d =>
    cases d with
    | none =>
      obtain ⟨rfl, rfl⟩ := Code.request.inj h
      rfl
    | some d =>
      obtain ⟨hword, rfl⟩ := Code.request.inj h
      obtain ⟨hopc, hpresent, rfl, hzero⟩ := configureWord_eq_iff.mp hword
      simp [decodeRequest, hopc, oneWord, hpresent, hzero]
  | gpioWrite p n l =>
    obtain ⟨hword, rfl⟩ := Code.request.inj h
    obtain ⟨hopc, rfl, rfl, rfl, hzero⟩ := writeWord_eq_iff.mp hword
    simp [decodeRequest, hopc, oneWord, hzero]
  | gpioRead p n | gpioToggle p n =>
    obtain ⟨hword, rfl⟩ := Code.request.inj h
    obtain ⟨hopc, rfl, rfl, hzero⟩ := pinWord_eq_iff.mp hword
    simp [decodeRequest, hopc, oneWord, hzero]
  | lcdInit | lcdClear | lcdHome =>
    obtain ⟨rfl, rfl⟩ := Code.request.inj h
    rfl
  | lcdSetCursor row col =>
    obtain ⟨hword, rfl⟩ := Code.request.inj h
    obtain ⟨hopc, rfl, rfl, hzero⟩ := cursorWord_eq_iff.mp hword
    simp [decodeRequest, hopc, oneWord, hzero]
  | lcdPrintChar c =>
    obtain ⟨hword, rfl⟩ := Code.request.inj h
    obtain ⟨hopc, rfl, hzero⟩ := charWord_eq_iff.mp hword
    simp [decodeRequest, hopc, oneWord, hzero]
  | lcdPrintString str =>
    obtain ⟨hword, rfl⟩ := Code.request.inj h
    obtain ⟨hopc, hlen, hzero⟩ := stringWord_eq_iff.mp hword
    have hfits : str.length = (reqLen w).toNat := by
      rw [hlen, BitVec.toNat_ofNat, Nat.mod_eq_of_lt (of_decide_eq_true hwf)]
    simpa [decodeRequest, hopc] using stringRequest_eq_ok_iff.mpr ⟨hzero, str, hfits, rfl, rfl⟩
  | reserved0 x | reserved5 x | reserved6 x | reserved7 x | reservedE x | reservedF x =>
    obtain ⟨hword, rfl⟩ := Code.request.inj h
    obtain ⟨hopc, rfl⟩ := opcodeWord_eq_iff.mp hword
    simp [decodeRequest, hopc]
  | _ => cases h

/-! ## Encoding what the decoder read -/

/-- The instruction has an encoding, which is the word with the bytes taken from the stream; the absent descriptor's is
left open, for its word may have any value in the ignored bits (R53). -/
def Encodes (w : Word) (stream rest : List Byte) (i : Instr) : Prop :=
  i.wellFormed = true ∧ (i ≠ .gpioConfigure none → ∃ bytes, encode i = .request w bytes ∧ stream = bytes ++ rest)

theorem Encodes.of_word {bytes : List Byte} (hwf : i.wellFormed = true) (henc : encode i = .request w bytes) :
    Encodes w (bytes ++ rest) rest i :=
  ⟨hwf, fun _ => ⟨bytes, henc, rfl⟩⟩

/-- An arm without operand bytes, whose word the encoder writes as `v`. -/
theorem Encodes.of_oneWord {v : Word} (h : oneWord z w stream i = .ok (j, rest)) (hwf : i.wellFormed = true)
    (henc : encode i = .request v []) (hv : lowZero z w = true → v = w) : Encodes w stream rest j := by
  obtain ⟨hzero, rfl, rfl⟩ := oneWord_eq_ok_iff.mp h
  exact .of_word hwf (hv hzero ▸ henc)

/-- An arm without operands. -/
theorem Encodes.of_noOperand {o : BitVec 4} (h : oneWord 28 w stream i = .ok (j, rest)) (hwf : i.wellFormed = true)
    (henc : encode i = .request (o ++ 0#28) []) (ho : (reqOpc w).toNat = o.toNat) : Encodes w stream rest j :=
  .of_oneWord h hwf henc fun hzero => opcodeWord_eq_iff.mpr ⟨BitVec.eq_of_toNat_eq ho, lowZero_iff.mp hzero⟩

/-- An arm whose word is checked for nothing but its opcode. -/
theorem Encodes.of_opcode {o : BitVec 4} (h : (.ok (i, stream) : Except DecodeError _) = .ok (j, rest))
    (hwf : i.wellFormed = true) (henc : encode i = .request (o ++ w.extractLsb' 0 28) [])
    (ho : (reqOpc w).toNat = o.toNat) : Encodes w stream rest j := by
  obtain ⟨rfl, rfl⟩ := Prod.mk.inj (Except.ok.inj h)
  exact .of_word hwf (opcodeWord_eq_iff.mpr ⟨BitVec.eq_of_toNat_eq ho, rfl⟩ ▸ henc)

/-- The sixteen arms of the decoder, in its order. -/
theorem encodes_of_decodeRequest (h : decodeRequest w stream = .ok (i, rest)) : Encodes w stream rest i := by
  have opc : ∀ {o : BitVec 4}, (reqOpc w).toNat = o.toNat → reqOpc w = o := BitVec.eq_of_toNat_eq
  unfold decodeRequest at h
  split at h
  next hopc =>
    split_ifs at h with hpresent
    · exact .of_oneWord h rfl rfl fun hzero => configureWord_eq_iff.mpr ⟨opc hopc, hpresent, rfl, hzero⟩
    · obtain ⟨-, rfl, rfl⟩ := oneWord_eq_ok_iff.mp h
      exact ⟨rfl, absurd rfl⟩
  next hopc => exact .of_oneWord h rfl rfl fun hzero => writeWord_eq_iff.mpr ⟨opc hopc, rfl, rfl, rfl, hzero⟩
  next hopc => exact .of_oneWord h rfl rfl fun hzero => pinWord_eq_iff.mpr ⟨opc hopc, rfl, rfl, hzero⟩
  next hopc => exact .of_oneWord h rfl rfl fun hzero => pinWord_eq_iff.mpr ⟨opc hopc, rfl, rfl, hzero⟩
  next hopc => exact .of_noOperand (o := 0x8#4) h rfl rfl hopc
  next hopc => exact .of_noOperand (o := 0x9#4) h rfl rfl hopc
  next hopc => exact .of_noOperand (o := 0xA#4) h rfl rfl hopc
  next hopc => exact .of_oneWord h rfl rfl fun hzero => cursorWord_eq_iff.mpr ⟨opc hopc, rfl, rfl, hzero⟩
  next hopc => exact .of_oneWord h rfl rfl fun hzero => charWord_eq_iff.mpr ⟨opc hopc, rfl, hzero⟩
  next hopc =>
    obtain ⟨hzero, str, hlen, rfl, rfl⟩ := stringRequest_eq_ok_iff.mp h
    have hword : 0xD#4 ++ BitVec.ofNat 16 str.length ++ 0#12 = w :=
      stringWord_eq_iff.mpr ⟨opc hopc, by rw [hlen, BitVec.ofNat_toNat, BitVec.setWidth_eq], hzero⟩
    exact .of_word (decide_eq_true (hlen ▸ (reqLen w).isLt)) (congrArg (Code.request · str) hword)
  next hopc => exact .of_opcode h rfl rfl hopc
  next hopc => exact .of_opcode h rfl rfl hopc
  next hopc => exact .of_opcode h rfl rfl hopc
  next hopc => exact .of_opcode h rfl rfl hopc
  next hopc => exact .of_opcode h rfl rfl hopc
  next =>
    have hlt := (reqOpc w).isLt
    simp only [imp_false] at *
    exact .of_opcode (o := 0xF#4) h rfl rfl (show (reqOpc w).toNat = 15 by omega)

end

/-- Settles O2: an arm of the decoder reads every field its form is made of, and checks the bits between them. -/
theorem requestWordIsItsEncoding : Obligations.RequestWordIsItsEncoding :=
  fun _ _ _ _ => encodes_of_decodeRequest

end Sys2Proof

/-! PROOFS. The rows of the opcode table as masks and patterns (spec/30_encoding.md R51, R52, R57). -/

namespace Sys2Proof

/-! ## The low bits a format marks 0 -/

/-- How many low bits the format of an opcode marks 0 (R51); a reserved opcode has no format and none is checked. -/
def zeroBits : Nat → Nat
  | 0x1 => 8
  | 0x2 => 19
  | 0x3 | 0x4 | 0xC => 20
  | 0x8 | 0x9 | 0xA => 28
  | 0xB | 0xD => 12
  | _ => 0

/-- The mask of a row: the opcode, and the `z` low bits its format marks 0. -/
def rowMask (z : Nat) : Word := 0xF#4 ++ BitVec.ofNat 28 (2 ^ z - 1)

/-- The row of an opcode. -/
def opcodeRow (o : BitVec 4) : Word × Word := (rowMask (zeroBits o.toNat), o ++ 0#28)

/-- The opcodes in the order of the table. -/
def tableOpcodes : List (BitVec 4) :=
  [0x1, 0x2, 0x3, 0x4, 0x8, 0x9, 0xA, 0xB, 0xC, 0xD, 0x0, 0x5, 0x6, 0x7, 0xE, 0xF]

theorem requestRows_eq : requestRows = tableOpcodes.map opcodeRow := rfl

theorem mem_tableOpcodes : ∀ o : BitVec 4, o ∈ tableOpcodes := by decide

theorem zeroBits_le (o : Nat) : zeroBits o ≤ 28 := by
  unfold zeroBits
  split <;> omega

section
variable {w : Word} {stream : List Byte}

/-- Under its mask a word shows the opcode alone exactly when the low bits are 0. -/
theorem and_rowMask_eq_iff {z : Nat} (hz : z ≤ 28) {o : BitVec 4} :
    w &&& rowMask z = o ++ 0#28 ↔ reqOpc w = o ∧ lowZero z w = true := by
  have hzero : w.extractLsb' 0 28 &&& BitVec.ofNat 28 (2 ^ z - 1) = 0#28 ↔ w.extractLsb' 0 z = 0#z := by
    have hpow : 2 ^ z - 1 < 2 ^ 28 := by
      have := Nat.pow_le_pow_right (n := 2) (by decide) hz
      omega
    rw [BitVec.toNat_eq, BitVec.toNat_eq, BitVec.toNat_and, BitVec.toNat_ofNat, Nat.mod_eq_of_lt hpow,
      Nat.and_two_pow_sub_one_eq_mod, BitVec.extractLsb'_toNat, BitVec.extractLsb'_toNat,
      Nat.mod_mod_of_dvd _ (Nat.pow_dvd_pow 2 hz), BitVec.toNat_ofNat, BitVec.toNat_ofNat, Nat.zero_mod, Nat.zero_mod]
  refine (and_append_eq_append_iff (a := 4) (b := 28)).trans ?_
  rw [hzero, ← lowZero_iff]
  exact and_congr_left' (iff_of_eq (congrArg (· = o) BitVec.and_allOnes))

theorem matches_requestRow_iff :
    (∃ row ∈ requestRows, w &&& row.1 = row.2) ↔ lowZero (zeroBits (reqOpc w).toNat) w = true := by
  simp only [requestRows_eq, List.mem_map, exists_exists_and_eq_and]
  constructor
  · rintro ⟨o, -, hrow⟩
    obtain ⟨rfl, hzero⟩ := (and_rowMask_eq_iff (zeroBits_le _)).mp hrow
    exact hzero
  · exact fun hzero => ⟨_, mem_tableOpcodes _, (and_rowMask_eq_iff (zeroBits_le _)).mpr ⟨rfl, hzero⟩⟩

/-- The sixteen arms of the decoder, in its order. -/
theorem decodeRequest_ne_reservedBits_iff :
    decodeRequest w stream ≠ .error .reservedBits ↔ lowZero (zeroBits (reqOpc w).toNat) w = true := by
  have hunchecked (i : Instr) :
      (.ok (i, stream) : Except DecodeError _) ≠ .error .reservedBits ↔ lowZero 0 w = true := by
    simp [lowZero_iff, BitVec.of_length_zero]
  unfold decodeRequest
  split
  case h_1 hopc | h_2 hopc | h_3 hopc | h_4 hopc | h_5 hopc | h_6 hopc | h_7 hopc | h_8 hopc | h_9 hopc =>
    rw [hopc]
    exact oneWord_ne_reservedBits_iff
  case h_10 hopc =>
    rw [hopc]
    exact stringRequest_ne_reservedBits_iff
  case h_11 hopc | h_12 hopc | h_13 hopc | h_14 hopc | h_15 hopc =>
    rw [hopc]
    exact hunchecked _
  case h_16 =>
    have hzero : zeroBits (reqOpc w).toNat = 0 := by
      unfold zeroBits
      split <;> simp_all
    rw [hzero]
    exact hunchecked _

end

/-- Settles O3: a row matches, and the decoder finds no reserved bit, exactly when the low bits that the opcode's format
marks 0 are 0. -/
theorem requestWordsOfTheTable : Obligations.RequestWordsOfTheTable :=
  fun _ _ => matches_requestRow_iff.trans decodeRequest_ne_reservedBits_iff.symm

end Sys2Proof

/-! PROOFS. The decoder of LCD instruction bytes (spec/30_encoding.md R59, R60). -/

namespace Sys2Proof

/-- Each row has at most 128 bytes, and every one of them decodes to the instruction it encodes. -/
theorem decodeByte_of_encode {b : Byte} {i : Instr} (h : encode i = .command b) : decodeByte b = .ok i := by
  cases i with
  | clearDisplay | returnHome | entryModeSet | displayControl | cursorDisplayShift | functionSet | setCgramAddress
  | setDdramAddress =>
    obtain rfl := Code.command.inj h
    clear h
    decide +revert
  | gpioConfigure d => cases d <;> cases h
  | _ => cases h

/-- The position of the most significant 1 selects the row, and the row's fields are the rest of the byte. -/
theorem encode_of_decodeByte {b : Byte} {i : Instr} (h : decodeByte b = .ok i) : encode i = .command b := by
  have one {k : Nat} (hone : b.getLsbD k = true) : b.extractLsb' k 1 = 1#1 := extractLsb'_eq_one_iff.mpr hone
  have below {k n : Nat} (hzero : ¬ b.getLsbD (k + (n + 1)) = true) (hone : b.extractLsb' k (n + 1) = 1#(n + 1)) :
      b.extractLsb' k (n + 2) = 1#(n + 2) := extractLsb'_eq_one_succ_iff.mpr ⟨hzero, hone⟩
  unfold decodeByte at h
  split_ifs at h with h7 h6 h5 h4 h3 h2 h1 h0 <;> obtain rfl := Except.ok.inj h <;> apply congrArg Code.command
  · exact ddramByte_eq_iff.mpr ⟨one h7, rfl⟩
  · exact cgramByte_eq_iff.mpr ⟨below h7 (one h6), rfl⟩
  · exact functionSetByte_eq_iff.mpr ⟨below h7 (below h6 (one h5)), rfl, rfl, rfl, rfl⟩
  · exact shiftByte_eq_iff.mpr ⟨below h7 (below h6 (below h5 (one h4))), rfl, rfl, rfl⟩
  · exact displayControlByte_eq_iff.mpr ⟨below h7 (below h6 (below h5 (below h4 (one h3)))), rfl, rfl, rfl⟩
  · exact entryModeByte_eq_iff.mpr ⟨below h7 (below h6 (below h5 (below h4 (below h3 (one h2))))), rfl, rfl⟩
  · exact returnHomeByte_eq_iff.mpr ⟨below h7 (below h6 (below h5 (below h4 (below h3 (below h2 (one h1)))))), rfl⟩
  · have hbyte : b.extractLsb' 0 8 = 1#8 :=
      below h7 (below h6 (below h5 (below h4 (below h3 (below h2 (below h1 (one h0)))))))
    exact (b.extractLsb'_eq_self.symm.trans hbyte).symm

theorem decodeByte_eq_ok_iff {b : Byte} {i : Instr} : decodeByte b = .ok i ↔ encode i = .command b :=
  ⟨encode_of_decodeByte, decodeByte_of_encode⟩

theorem eq_zero_iff_notAnLcdInstruction {b : Byte} : b = 0 ↔ decodeByte b = .error .notAnLcdInstruction := by
  decide +revert

/-- Settles O1: the form of the instruction's word or byte gives the decoder each of its fields. -/
theorem decodeEncodeRoundTrip : Obligations.DecodeEncodeRoundTrip := by
  intro i more hwf
  cases hcode : encode i with
  | request w bytes => exact decodeRequest_of_encode hwf hcode more
  | command b => simp [decode, decodeByte_of_encode hcode]

/-- Settles O4: a byte decodes to the instruction it is the encoding of, and the mask of a row picks the high bits that
all bytes of the row have in common. -/
theorem commandByteRows : Obligations.CommandByteRows := by
  intro b
  have row (a k : Nat) (v : BitVec (a + k)) :
      v &&& (BitVec.allOnes a ++ 0#k) = 1#a ++ 0#k ↔ v.extractLsb' k a = 1#a := and_highMask_eq_iff
  simp only [decodeByte_eq_ok_iff]
  refine ⟨?clear, ?home, ?entryMode, ?control, ?shift, ?functionSet, ?cgram, ?ddram,
    eq_zero_iff_notAnLcdInstruction, fun _ => id⟩
  case clear => exact (iff_of_eq (congrArg (· = 1#8) BitVec.and_allOnes)).trans (by simp [encode, eq_comm])
  case home => exact (row 7 1 b).trans (by simp [encode, returnHomeByte_eq_iff])
  case entryMode => exact (row 6 2 b).trans (by simp [encode, entryModeByte_eq_iff])
  case control => exact (row 5 3 b).trans (by simp [encode, displayControlByte_eq_iff])
  case shift => exact (row 4 4 b).trans (by simp [encode, shiftByte_eq_iff])
  case functionSet => exact (row 3 5 b).trans (by simp [encode, functionSetByte_eq_iff])
  case cgram => exact (row 2 6 b).trans (by simp [encode, cgramByte_eq_iff])
  case ddram => exact (row 1 7 b).trans (by simp [encode, ddramByte_eq_iff])

/-- Settles O5: each word and byte is decoded. -/
theorem sampleWordsDecode : Obligations.SampleWordsDecode :=
  ⟨rfl, rfl, rfl, rfl, rfl, rfl, rfl, rfl, rfl, rfl, rfl, rfl, rfl, rfl⟩

end Sys2Proof

/-! PROOFS. Request words that are no operation, presented to an idle block (spec/30_encoding.md R57;
spec/40_gpio_ops.md R68; spec/60_exceptions.md R107, R115). -/

namespace Sys2Proof.Machine

/-! ## Reserved opcodes -/

theorem checksOf_reserved {i : Instr} (h : isReserved i = true) (s : State) :
    checksOf i s = [(false, .reservedRequest)] := by
  cases i with
  | reserved0 | reserved5 | reserved6 | reserved7 | reservedE | reservedF => rfl
  | _ => simp [isReserved] at h

theorem exec_reserved_idle {i : Instr} (h : isReserved i = true) {s : State} (hidle : s.seq = .idle) :
    exec i s = .refused .reservedRequest := by
  rw [exec_request (isCommandByte_of_request (.inr h)), checksOf_reserved h]
  exact operate_refused hidle rfl _

/-- Settles O8: the one check of a reserved opcode fails, and comes behind the one for a busy block. -/
theorem reservedOpcodesStop : Obligations.ReservedOpcodesStop := by
  intro i s h
  split_ifs with hidle
  · exact exec_reserved_idle h hidle
  · exact busyBlockTakesNoRequest i s (.inr h) hidle

/-! ## Refused requests -/

section
variable {s : State} {w : Word} {rest : List HostEvent}

theorem step_request {i : Instr} {stream : List Byte} (hseq : s.seq = .idle) (hinbox : s.inbox = .request w :: rest)
    (hdecode : decodeRequest w s.stream = .ok (i, stream)) :
    step s = exec i { s with inbox := rest, stream := stream } := by
  rw [step, fetch_request hseq hinbox hdecode]

theorem step_reservedBits (hseq : s.seq = .idle) (hinbox : s.inbox = .request w :: rest)
    (hdecode : decodeRequest w s.stream = .error .reservedBits) : step s = .refused .reservedRequest := by
  rw [step, fetch_idle hseq (noReset_of_request hinbox)]
  simp [fetchIdle, hinbox, hdecode]

/-- A request whose word decodes and whose acceptance check fails. -/
theorem step_refused {i : Instr} {stream : List Byte} {e : Refusal} (hseq : s.seq = .idle)
    (hinbox : s.inbox = .request w :: rest) (hdecode : decodeRequest w s.stream = .ok (i, stream))
    (hi : isCommandByte i = false)
    (hcheck : firstRefusal (checksOf i { s with inbox := rest, stream := stream }) = some e) : step s = .refused e := by
  rw [step_request hseq hinbox hdecode, exec_request hi]
  exact operate_refused (s := { s with inbox := rest, stream := stream }) hseq hcheck _

theorem portChecks_missing {p : PortIx} (hp : s.cfg.nports ≤ p.toNat) :
    firstRefusal (portChecks s p) = some .invalidPortHandle := by
  rw [firstRefusal_portChecks, if_neg (Nat.not_lt.mpr hp)]

theorem configureChecks_missing {d : Descriptor} (hp : s.cfg.nports ≤ d.port.toNat) :
    firstRefusal (configureChecks s d) = some .invalidPortHandle := by
  simp [configureChecks, firstRefusal, portExists, Nat.not_lt.mpr hp]

theorem configureChecks_pull {d : Descriptor} (hp : d.port.toNat < s.cfg.nports) (hpull : d.pull = 0b11#2) :
    firstRefusal (configureChecks s d) = some .reservedPullCode := by
  simp [configureChecks, firstRefusal, portExists, hp, hpull]

theorem decodeRequest_reserved {stream : List Byte}
    (h : reqOpc w ∈ [0x0#4, 0x5#4, 0x6#4, 0x7#4, 0xE#4, 0xF#4]) :
    ∃ i, isReserved i = true ∧ decodeRequest w stream = .ok (i, stream) := by
  simp only [List.mem_cons, List.not_mem_nil, or_false] at h
  obtain h | h | h | h | h | h := h <;> simp [decodeRequest, h, isReserved]

theorem decodeRequest_present {stream : List Byte} (hrow : w &&& 0xF00000FF#32 = 0x10000000#32)
    (hpresent : reqBit19 w = true) :
    decodeRequest w stream = .ok (.gpioConfigure (some (reqDescriptor w)), stream) := by
  obtain ⟨hopc, hzero⟩ := (and_rowMask_eq_iff (z := 8) (by decide) (o := 0x1#4)).mp hrow
  simp [decodeRequest, hopc, oneWord, hpresent, hzero]

/-- The three operations that name a port and a pin decode to one that is checked on that port. -/
theorem decodeRequest_pinOperation {stream : List Byte}
    (hrow : w &&& 0xF007FFFF#32 = 0x20000000#32 ∨ w &&& 0xF00FFFFF#32 = 0x30000000#32 ∨
      w &&& 0xF00FFFFF#32 = 0x40000000#32) :
    ∃ i, isCommandByte i = false ∧ (∀ s, checksOf i s = portChecks s (reqPort w)) ∧
      decodeRequest w stream = .ok (i, stream) := by
  obtain hrow | hrow | hrow := hrow
  · obtain ⟨hopc, hzero⟩ := (and_rowMask_eq_iff (z := 19) (by decide) (o := 0x2#4)).mp hrow
    exact ⟨.gpioWrite (reqPort w) (reqPin w) (reqBit19 w), rfl, fun _ => rfl,
      by simp [decodeRequest, hopc, oneWord, hzero]⟩
  · obtain ⟨hopc, hzero⟩ := (and_rowMask_eq_iff (z := 20) (by decide) (o := 0x3#4)).mp hrow
    exact ⟨.gpioRead (reqPort w) (reqPin w), rfl, fun _ => rfl, by simp [decodeRequest, hopc, oneWord, hzero]⟩
  · obtain ⟨hopc, hzero⟩ := (and_rowMask_eq_iff (z := 20) (by decide) (o := 0x4#4)).mp hrow
    exact ⟨.gpioToggle (reqPort w) (reqPin w), rfl, fun _ => rfl, by simp [decodeRequest, hopc, oneWord, hzero]⟩

end

/-- Settles O9: a word of no row is stopped in fetching, a reserved opcode and an operation with a bad operand by the
first check of its acceptance that fails. -/
theorem illegalRequestsRefused : Obligations.IllegalRequestsRefused := by
  intro s w rest hseq hinbox
  refine ⟨?opcode, ?noRow, ?descriptorPort, ?pullCode, ?pinPort⟩
  case opcode =>
    intro hopc
    obtain ⟨i, hi, hdecode⟩ := decodeRequest_reserved hopc
    rw [step_request hseq hinbox hdecode]
    exact exec_reserved_idle hi hseq
  case noRow =>
    intro hrow
    refine step_reservedBits hseq hinbox (not_not.mp fun hdecode => ?_)
    obtain ⟨row, hmem, hmatch⟩ := (requestWordsOfTheTable w s.stream).mpr hdecode
    exact hrow row hmem hmatch
  case descriptorPort =>
    intro hrow hpresent hp
    exact step_refused hseq hinbox (decodeRequest_present hrow hpresent) rfl (configureChecks_missing hp)
  case pullCode =>
    intro hrow hpresent hp hpull
    exact step_refused hseq hinbox (decodeRequest_present hrow hpresent) rfl (configureChecks_pull hp hpull)
  case pinPort =>
    intro hrow hp
    obtain ⟨i, hi, hchecks, hdecode⟩ := decodeRequest_pinOperation hrow
    exact step_refused hseq hinbox hdecode hi (hchecks _ ▸ portChecks_missing hp)

end Sys2Proof.Machine


/-! PROOFS. The response an operation leaves (spec/30_encoding.md R58; spec/40_gpio_ops.md R71; spec/43_lcd_ops.md
R96). -/

namespace Sys2Proof.Machine

/-! ## The status of an operation -/

/-- Both coordinates of `LCD_SET_CURSOR` lie inside the latched geometry (R96). -/
def cursorInRange (s : State) (row col : Byte) : Prop :=
  row.toNat < s.lpd.rows.toNat ∧ col.toNat < s.lpd.cols.toNat

/-- Out of range, `LCD_SET_CURSOR` does nothing but respond (R96). -/
theorem setCursorSteps_outOfRange {row col : Byte} {s : State} (h : ¬ cursorInRange s row col) :
    setCursorSteps row col s = [.respond .noEffect false] := by
  unfold setCursorSteps
  split_ifs with hrow hcol
  · rfl
  · rfl
  · exact absurd ⟨BitVec.not_le.mp hrow, BitVec.not_le.mp hcol⟩ h

/-- Every operation but `GPIO_READ` ends by presenting `LEVEL` 0, with `STATUS` OK unless it is a cursor out of range
(R58). -/
theorem stepsOf_eq_append_respond {i : Instr} (hi : isOperation i = true) (hread : ∀ p n, i ≠ .gpioRead p n)
    {s : State} (hrange : ∀ row col, i = .lcdSetCursor row col → cursorInRange s row col) :
    ∃ body, stepsOf i s = body ++ [.respond .ok false] := by
  cases i with
  | gpioConfigure d =>
    cases d with
    | none => exact ⟨[], rfl⟩
    | some d => exact ⟨_, rfl⟩
  | gpioRead p n => exact absurd rfl (hread p n)
  | gpioWrite p n l => exact ⟨[.writeLevel p n l], rfl⟩
  | gpioToggle p n => exact ⟨[.toggle p n], rfl⟩
  | lcdInit => exact ⟨initSteps.dropLast, by simp only [stepsOf]; decide⟩
  | lcdClear | lcdHome => exact ⟨[.command _, .wait Config.tClear, .cursor 0 0], rfl⟩
  | lcdSetCursor row col =>
    obtain ⟨hrow, hcol⟩ := hrange row col rfl
    exact ⟨[.command _, .cursor row col], setCursorSteps_inRange hrow hcol⟩
  | lcdPrintChar c => exact ⟨charSteps c, rfl⟩
  | lcdPrintString str => exact ⟨str.flatMap charSteps, rfl⟩
  | _ => simp [isOperation] at hi

theorem resp_of_runActions_respond {body : List Action} {st : Status} {l : Level} {s t : State}
    (h : runActions (body ++ [.respond st l]) s = .ok t) : t.resp = ⟨st, l⟩ := by
  obtain ⟨m, -, hlast⟩ := runActions_append_ok.mp h
  exact Except.ok.inj hlast ▸ rfl

/-! ## The level read -/

/-- `GPIO_READ` draws the pins once and responds with the bit at the pin (R71). -/
theorem readPin_eq (p : PortIx) (n : PinIx) (s : State) :
    readPin p n s =
      .ok (respond .ok ((drawPad p s).1.getLsbD n.toNat) (emit (.rdi p (drawPad p s).1) (drawPad p s).2)) := by
  have hpin : n.toNat < 32 := Nat.lt_trans n.isLt (by decide)
  simp [readPin, regRead, hpin]

theorem respBits_ok (l : Level) : respBits ⟨.ok, l⟩ = 0#1 ++ BitVec.ofBool l := rfl

/-- Settles O57: the last step of the operation's sequence presents the response. -/
theorem responseOfCompletedOperation : Obligations.ResponseOfCompletedOperation := by
  intro i s t hi h
  rw [exec_request (isCommandByte_of_request (.inl hi))] at h
  obtain ⟨-, -, hrun⟩ := operate_next.mp h
  refine ⟨runActions_stepsOf_idle hi hrun, ?read, ?outOfRange, ?ok⟩
  case read =>
    rintro p n rfl
    have hread := (runActions_singleton _ _).symm.trans hrun
    obtain rfl := Except.ok.inj ((readPin_eq p n _).symm.trans hread)
    exact ⟨_, by rw [respond_trace, emit_trace, drawPad_trace, accepted_trace], respBits_ok _⟩
  case outOfRange =>
    rintro row col rfl hout
    have hsteps : stepsOf (.lcdSetCursor row col) s = [.respond .noEffect false] :=
      setCursorSteps_outOfRange fun ⟨hrow, hcol⟩ => by omega
    have hresp : t.resp = ⟨.noEffect, false⟩ := resp_of_runActions_respond (body := []) (hsteps ▸ hrun)
    rw [hresp]
    rfl
  case ok =>
    intro hread hrange
    obtain ⟨body, hsteps⟩ := stepsOf_eq_append_respond hi hread hrange
    have hresp : t.resp = ⟨.ok, false⟩ := resp_of_runActions_respond (body := body) (hsteps ▸ hrun)
    rw [hresp]
    rfl

end Sys2Proof.Machine

/-! PROOFS. When the operations of the Port Register Model are refused, and what `GPIO_WRITE`, `GPIO_READ`,
`GPIO_TOGGLE` and `GPIO_CONFIGURE` of an absent descriptor do (spec/40_gpio_ops.md R68 to R73; spec/60_exceptions.md R102,
R107). -/

namespace Sys2Proof.Machine

/-! ## Acceptance -/

/-- An accepted request whose sequence appends the events `es` and then responds OK. -/
theorem exec_completes {i : Instr} {s : State} {body : List Action} {es : List Event} (hi : isCommandByte i = false)
    (hidle : s.seq = .idle) (hchecks : firstRefusal (checksOf i s) = none)
    (hsteps : stepsOf i s = body ++ [.respond .ok false])
    (hrun : runActions body (accepted i (stepsOf i s) s) = .ok (after es (accepted i (stepsOf i s) s))) :
    exec i s = .next { after es s with resp := ⟨.ok, false⟩ } := by
  rw [exec_request hi]
  refine operate_accepted hidle hchecks ?_
  refine (congrArg (runActions · _) hsteps).trans (runActions_append_ok.mpr ⟨_, hrun, ?_⟩)
  simp only [runActions, perform, respond, after, accepted, ← hidle]

theorem exec_refused {i : Instr} {s : State} {e : Refusal} (hi : isCommandByte i = false) (hidle : s.seq = .idle)
    (hchecks : firstRefusal (checksOf i s) = some e) : exec i s = .refused e := by
  rw [exec_request hi]
  exact operate_refused hidle hchecks _

section
variable {s : State}

theorem portChecks_unclocked {p : PortIx} (hp : p.toNat < s.cfg.nports) (hclock : s.clken.getLsbD p.toNat = false) :
    firstRefusal (portChecks s p) = some .portClockDisabled := by
  simp [firstRefusal_portChecks, hp, hclock]

theorem configureChecks_unclocked {d : Descriptor} (hp : d.port.toNat < s.cfg.nports) (hpull : d.pull ≠ 0b11#2)
    (hclock : s.clken.getLsbD d.port.toNat = false) :
    firstRefusal (configureChecks s d) = some .portClockDisabled := by
  simp [configureChecks, firstRefusal, portExists, clockOn, hp, hpull, hclock]

end

/-- Settles O20: in each situation the first check that fails names the refusal. -/
theorem prmRefusals : Obligations.PrmRefusals := by
  intro d l s hidle
  refine ⟨fun hp => ?missing, fun hp hpull => ?pullCode, fun hp hclock => ?unclocked⟩
  case missing =>
    have hport := portChecks_missing hp
    exact ⟨exec_refused rfl hidle (configureChecks_missing hp), exec_refused rfl hidle hport,
      exec_refused rfl hidle hport, exec_refused rfl hidle hport⟩
  case pullCode => exact exec_refused rfl hidle (configureChecks_pull hp hpull)
  case unclocked =>
    have hport := portChecks_unclocked hp hclock
    exact ⟨fun hpull => exec_refused rfl hidle (configureChecks_unclocked hp hpull hclock),
      exec_refused rfl hidle hport, exec_refused rfl hidle hport, exec_refused rfl hidle hport⟩

/-- Settles O16: no check precedes the response, which is the whole sequence. -/
theorem configureAbsentIsNoOp : Obligations.ConfigureAbsentIsNoOp := by
  intro s hidle
  have h := exec_completes (i := .gpioConfigure none) (body := []) (es := []) rfl hidle rfl rfl (by rw [after_nil]; rfl)
  rwa [after_nil] at h

/-! ## `GPIO_WRITE` -/

theorem exec_gpioWrite {p : PortIx} {s : State} (n : PinIx) (l : Level) (hready : PortReady s p) :
    exec (.gpioWrite p n l) s = .next { after [.wr p .bsr (bsrWord n l)] s with resp := ⟨.ok, false⟩ } := by
  obtain ⟨hidle, haccept⟩ := hready
  exact exec_completes (body := [.writeLevel p n l]) rfl hidle (portChecks_none.mpr haccept) rfl rfl

/-- The one write drives the pin's output bit to the level and keeps the others (R18, R70). -/
theorem odata_after_bsrWord (p : PortIx) (n : PinIx) (l : Level) (s : State) (i : Nat) :
    (port (after [.wr p .bsr (bsrWord n l)] s) p).odata.getLsbD i =
      if i = n.toNat then l else (port s p).odata.getLsbD i := by
  have hport : port (after [.wr p .bsr (bsrWord n l)] s) p = (port s p).write .bsr (bsrWord n l) :=
    port_regWrite_same p .bsr (bsrWord n l) s
  rw [hport]
  exact applyBsr_bsrWord_getLsbD ..

/-- Settles O21: the sequence is one write to `BSR`, of the word that drives the pin. -/
theorem gpioWriteResult : Obligations.GpioWriteResult :=
  fun p n l s hready => ⟨_, exec_gpioWrite n l hready, rfl, odata_after_bsrWord p n l s⟩

/-- Settles O22: both writes drive one pin, so the second decides its bit. -/
theorem writeHighThenLow : Obligations.WriteHighThenLow := by
  intro p n s hready
  obtain ⟨t, hhigh, hstate, hbits⟩ := gpioWriteResult p n true s hready
  have hready' : PortReady t p := hstate ▸ hready
  obtain ⟨u, hlow, -, hbits'⟩ := gpioWriteResult p n false t hready'
  refine ⟨t, u, hhigh, hlow, BitVec.eq_of_getLsbD_eq fun i hi => ?_⟩
  rw [hbits', hbits]
  by_cases hpin : i = n.toNat
  · simp [hpin]
  · have hother : i < n.toNat ∨ i - n.toNat ≠ 0 := by omega
    simp [hpin, hi, hother]

/-! ## `GPIO_READ` -/

theorem drawPad_seq (p : PortIx) (s : State) : (drawPad p s).2.seq = s.seq := by
  unfold drawPad
  split <;> rfl

theorem respond_of_idle {s : State} (h : s.seq = .idle) (st : Status) (l : Level) :
    respond st l s = { s with resp := ⟨st, l⟩ } := by
  rw [respond, ← h]

/-- `GPIO_READ` draws the pins once and responds with the bit at the pin (R71). -/
theorem exec_gpioRead {p : PortIx} {s m : State} {v : BitVec 16} (n : PinIx) (hready : PortReady s p)
    (hdraw : drawPad p s = (v, m)) :
    exec (.gpioRead p n) s = .next { emit (.rdi p v) m with resp := ⟨.ok, v.getLsbD n.toNat⟩ } := by
  obtain ⟨hidle, haccept⟩ := hready
  have hm : m.seq = .idle := by
    have hseq := drawPad_seq p s
    rwa [hdraw, hidle] at hseq
  refine operate_accepted hidle (portChecks_none.mpr haccept) ?_
  calc runActions [.readLevel p n] (accepted (.gpioRead p n) [.readLevel p n] s)
      = perform (.readLevel p n) (accepted (.gpioRead p n) [.readLevel p n] s) := runActions_singleton ..
    _ = readPin p n s := perform_response_withSeq (a := .readLevel p n) rfl _ s
    _ = .ok (respond .ok (v.getLsbD n.toNat) (emit (.rdi p v) m)) := by rw [readPin_eq, hdraw]
    _ = .ok { emit (.rdi p v) m with resp := ⟨.ok, v.getLsbD n.toNat⟩ } :=
      congrArg _ (respond_of_idle (s := emit (.rdi p v) m) hm ..)

/-- Settles O23: the level is drawn from the pad queue or, behind its end, from the free values. -/
theorem gpioReadResult : Obligations.GpioReadResult := fun p n _ hready =>
  ⟨fun _ _ hpads => exec_gpioRead n hready (drawPad_of_cons hpads p),
    fun hpads => exec_gpioRead n hready (drawPad_of_nil hpads p)⟩

/-! ## `GPIO_TOGGLE` -/

theorem exec_gpioToggle {p : PortIx} {s : State} (n : PinIx) (hready : PortReady s p) :
    exec (.gpioToggle p n) s =
      .next { after [.wr p .odata (toggled n (port s p).odata)] s with resp := ⟨.ok, false⟩ } := by
  obtain ⟨hidle, haccept⟩ := hready
  exact exec_completes (body := [.toggle p n]) rfl hidle (portChecks_none.mpr haccept) rfl rfl

/-- Settles O24: the sequence is one read-modify-write of `ODATA`. -/
theorem gpioToggleResult : Obligations.GpioToggleResult := fun _ n _ hready => exec_gpioToggle n hready

@[simp] theorem toggled_toggled (n : PinIx) (a : Word) : toggled n (toggled n a) = a := by simp [toggled]

/-- Settles O25: the second toggle writes back what the first found. -/
theorem toggleTwiceRestores : Obligations.ToggleTwiceRestores := by
  intro p n s hready
  refine ⟨_, _, exec_gpioToggle n hready, exec_gpioToggle n hready, ports_ext fun p' => ?_⟩
  by_cases hp : p' = p <;> simp [port, portAt_replay_wr, Port.write, hp]

end Sys2Proof.Machine

/-! PROOFS. `GPIO_CONFIGURE` as field updates of distinct registers, and the frame of the operations of the Port Register
Model (spec/20_memory.md R42; spec/40_gpio_ops.md R69 to R73). -/

namespace Sys2Proof.Machine

/-! ## What a list of writes leaves unchanged -/

/-- The storage register that a write to a register changes (R18, R41). -/
def changedReg : Reg → Reg
  | .bsr => .odata
  | r => r

theorem changedReg_of_ne_bsr {r : Reg} (h : r ≠ .bsr) : changedReg r = r := by
  cases r with
  | bsr => exact absurd rfl h
  | _ => rfl

/-- Every write of the list is to port `p` and changes a register of `rs`. -/
def WritesWithin (p : PortIx) (rs : List Reg) (es : List Event) : Prop :=
  ∀ p' r v, Event.wr p' r v ∈ es → p' = p ∧ changedReg r ∈ rs

theorem writesWithin_wr {p : PortIx} {r : Reg} {v : Word} {rs : List Reg} (hr : changedReg r ∈ rs) :
    WritesWithin p rs [.wr p r v] := by
  intro p' r' v' he
  obtain ⟨rfl, rfl, -⟩ := Event.wr.inj (List.mem_singleton.mp he)
  exact ⟨rfl, hr⟩

theorem writesWithin_rdi {p q : PortIx} {rs : List Reg} {v : BitVec 16} : WritesWithin p rs [.rdi q v] := by
  simp [WritesWithin]

section
variable {p : PortIx} {rs : List Reg} {es : List Event} (h : WritesWithin p rs es)
include h

theorem samePortBut_replayAll (ps : Vector Port 16) (p' : PortIx) :
    samePortBut rs (portAt ps p') (portAt (replayAll ps es) p') := by
  intro r hr
  by_cases hbsr : r = .bsr
  · subst hbsr; rfl
  · refine stored_replayAll (fun q r' v he => ⟨?_, ?_⟩) ps p'
    all_goals obtain ⟨-, hchanged⟩ := h q r' v he
    · rintro rfl
      exact hr (changedReg_of_ne_bsr hbsr ▸ hchanged)
    · rintro rfl rfl
      exact hr hchanged

theorem portAt_replayAll_of_ne {p' : PortIx} (hne : p' ≠ p) (ps : Vector Port 16) :
    portAt (replayAll ps es) p' = portAt ps p' := by
  induction es generalizing ps with
  | nil => rfl
  | cons e rest ih =>
    rw [replayAll_cons, ih fun q r v he => h q r v (List.mem_cons_of_mem _ he)]
    cases e with
    | rdi | wait => rfl
    | wr q r v =>
      obtain ⟨rfl, -⟩ := h q r v (List.mem_cons_self ..)
      rw [portAt_replay_wr, if_neg hne]

end

/-! ## Fields updated one after another -/

/-- A field and the value it is updated to (R42). -/
structure FieldUpdate where
  reg   : Reg
  off   : Nat
  width : Nat
  val   : Word

namespace FieldUpdate

/-- The register holds fields, the field lies inside it, and the value fits the field (R39, R42). -/
def Fits (u : FieldUpdate) : Prop := isFieldReg u.reg = true ∧ u.off + u.width ≤ 32 ∧ u.val.toNat < 2 ^ u.width

/-- The step that makes the update on port `p`. -/
def action (p : PortIx) (u : FieldUpdate) : Action := .fieldWrite p u.reg u.off u.width u.val

/-- The value of the register after the update of a port that holds `q`. -/
def value (q : Port) (u : FieldUpdate) : Word :=
  fieldSet u.off u.val (fieldClear u.off u.width ((q.stored u.reg).getD 0))

/-- The two events of the update of a port `p` that holds `q`. -/
def events (p : PortIx) (q : Port) (u : FieldUpdate) : List Event :=
  fieldEvents p u.reg u.off u.width u.val ((q.stored u.reg).getD 0)

end FieldUpdate

theorem stored_of_isFieldReg {r : Reg} (h : isFieldReg r = true) (q : Port) :
    q.stored r = some ((q.stored r).getD 0) := by
  cases r with
  | idata | bsr => simp [isFieldReg] at h
  | _ => rfl

theorem ne_bsr_of_isFieldReg {r : Reg} (h : isFieldReg r = true) : r ≠ .bsr := by
  rintro rfl
  simp [isFieldReg] at h

section
variable {us : List FieldUpdate} {p : PortIx} {q : Port}

theorem writesWithin_updates (hfields : ∀ u ∈ us, isFieldReg u.reg = true) :
    WritesWithin p (us.map FieldUpdate.reg) (us.flatMap (FieldUpdate.events p q)) := by
  intro p' r v he
  obtain ⟨u, hu, he⟩ := List.mem_flatMap.mp he
  have hwr : p' = p ∧ r = u.reg := by
    simp only [FieldUpdate.events, fieldEvents, List.mem_cons, Event.wr.injEq, List.not_mem_nil, or_false] at he
    obtain ⟨hp, hr, -⟩ | ⟨hp, hr, -⟩ := he <;> exact ⟨hp, hr⟩
  obtain ⟨rfl, rfl⟩ := hwr
  rw [changedReg_of_ne_bsr (ne_bsr_of_isFieldReg (hfields u hu))]
  exact ⟨rfl, List.mem_map_of_mem hu⟩

/-- The sequence of updates as the events of each, all of registers as they were before the first. -/
theorem runActions_updates (hfields : ∀ u ∈ us, isFieldReg u.reg = true) (hdistinct : (us.map FieldUpdate.reg).Nodup)
    (s : State) :
    runActions (us.map (FieldUpdate.action p)) s = .ok (after (us.flatMap (FieldUpdate.events p (port s p))) s) := by
  induction us generalizing s with
  | nil => rw [List.flatMap_nil, after_nil]; rfl
  | cons u us ih =>
    obtain ⟨hu, hus⟩ := List.forall_mem_cons.mp hfields
    obtain ⟨hnew, hdistinct⟩ := List.nodup_cons.mp hdistinct
    have hperform : perform (u.action p) s = .ok (after (u.events p (port s p)) s) :=
      fieldWrite_after _ _ _ (stored_of_isFieldReg hu _)
    have hkept : us.flatMap (FieldUpdate.events p (port (after (u.events p (port s p)) s) p)) =
        us.flatMap (FieldUpdate.events p (port s p)) := by
      refine List.flatMap_congr fun x hx => ?_
      have hne : x.reg ≠ u.reg := fun heq => hnew (heq ▸ List.mem_map_of_mem hx)
      rw [FieldUpdate.events, FieldUpdate.events, FieldUpdate.events,
        after_fieldEvents_stored hne (ne_bsr_of_isFieldReg hu)]
    rw [List.map_cons, runActions_cons hperform, ih hus hdistinct, hkept, after_append, List.flatMap_cons]

/-- A register an update names holds the updated value. -/
theorem stored_replay_updates_of_mem (hfields : ∀ u ∈ us, isFieldReg u.reg = true)
    (hdistinct : (us.map FieldUpdate.reg).Nodup) {u : FieldUpdate} (hu : u ∈ us) (ps : Vector Port 16) :
    (portAt (replayAll ps (us.flatMap (FieldUpdate.events p q))) p).stored u.reg = some (u.value q) := by
  induction us generalizing ps with
  | nil => simp at hu
  | cons x us ih =>
    obtain ⟨hx, hus⟩ := List.forall_mem_cons.mp hfields
    obtain ⟨hnew, hdistinct⟩ := List.nodup_cons.mp hdistinct
    rw [List.flatMap_cons, replayAll_append]
    obtain rfl | hu := List.mem_cons.mp hu
    · rw [samePortBut_replayAll (writesWithin_updates hus) _ _ _ hnew, FieldUpdate.events, portAt_fieldEvents,
        write_write (ne_bsr_of_isFieldReg hx)]
      exact stored_write_same (stored_of_isFieldReg hx _)
    · exact ih hus hdistinct hu _

end

/-! ## `GPIO_CONFIGURE` -/

/-- A field update leaves the bits outside the field (R42). -/
theorem fieldClear_fieldSet {off w : Nat} {val : Word} (hfit : off + w ≤ 32) (hval : val.toNat < 2 ^ w) (a : Word) :
    fieldClear off w (fieldSet off val (fieldClear off w a)) = fieldClear off w a := by
  apply BitVec.eq_of_getLsbD_eq
  intro i _
  rw [fieldClear_getLsbD, fieldClear_getLsbD, fieldSet_clear_getLsbD hfit hval]
  split_ifs with hi <;> simp [hi]

/-- The field updates of a present descriptor, in their order (R69). -/
def fieldUpdates (d : Descriptor) : List FieldUpdate :=
  [ ⟨.mode, off2 d.pin, 2, d.mode.zeroExtend 32⟩, ⟨.otype, off1 d.pin, 1, d.otype.zeroExtend 32⟩,
    ⟨.speed, off2 d.pin, 2, d.speed.zeroExtend 32⟩, ⟨.pull, off2 d.pin, 2, d.pull.zeroExtend 32⟩ ] ++
  (if d.mode = 0b10#2 then [⟨afReg d.pin, offAf d.pin, 4, d.af.zeroExtend 32⟩] else [])

theorem configureSteps_eq (d : Descriptor) :
    configureSteps d = (fieldUpdates d).map (FieldUpdate.action d.port) ++ [.respond .ok false] := by
  unfold configureSteps fieldUpdates
  split_ifs <;> rfl

theorem configureEvents_eq (q : Port) (d : Descriptor) :
    configureEvents q d = (fieldUpdates d).flatMap (FieldUpdate.events d.port q) := by
  unfold configureEvents fieldUpdates afReg offAf
  split_ifs <;> simp [FieldUpdate.events, Port.stored, off1, off2]

theorem prmWrites_configure (d : Descriptor) :
    prmWrites (.gpioConfigure (some d)) = (fieldUpdates d).map FieldUpdate.reg := by
  simp only [prmWrites, fieldUpdates, afReg]
  split_ifs <;> rfl

theorem fieldUpdates_fits (d : Descriptor) : ∀ u ∈ fieldUpdates d, u.Fits := by
  have hpin := d.pin.isLt
  have hselector : FieldUpdate.Fits ⟨afReg d.pin, offAf d.pin, 4, d.af.zeroExtend 32⟩ :=
    ⟨isFieldReg_afReg d.pin, offAf_fits d.pin, zext_lt d.af⟩
  have hcommon {r : Reg} {off w : Nat} (hr : isFieldReg r = true) (hfit : off + w ≤ 32) (code : BitVec w) :
      FieldUpdate.Fits ⟨r, off, w, code.zeroExtend 32⟩ := ⟨hr, hfit, zext_lt code⟩
  simp only [fieldUpdates, List.forall_mem_append, List.forall_mem_cons]
  refine ⟨⟨hcommon rfl (by unfold off2; omega) _, hcommon rfl (by unfold off1; omega) _,
    hcommon rfl (by unfold off2; omega) _, hcommon rfl (by unfold off2; omega) _, List.forall_mem_nil _⟩, ?_⟩
  split_ifs
  · exact List.forall_mem_singleton.mpr hselector
  · exact List.forall_mem_nil _

theorem fieldUpdates_distinct (d : Descriptor) : ((fieldUpdates d).map FieldUpdate.reg).Nodup := by
  simp only [← prmWrites_configure, prmWrites]
  split_ifs <;> decide

theorem fieldUpdates_isFieldReg (d : Descriptor) : ∀ u ∈ fieldUpdates d, isFieldReg u.reg = true :=
  fun u hu => (fieldUpdates_fits d u hu).1

theorem exec_gpioConfigure {d : Descriptor} {s : State} (hready : PortReady s d.port) (hpull : d.pull ≠ 0b11#2) :
    exec (.gpioConfigure (some d)) s =
      .next { after (configureEvents (port s d.port) d) s with resp := ⟨.ok, false⟩ } := by
  obtain ⟨hidle, hexists, hclock⟩ := hready
  refine exec_completes rfl hidle (configureChecks_none.mpr ⟨hexists, hpull, hclock⟩) (configureSteps_eq d) ?_
  rw [configureEvents_eq]
  exact runActions_updates (fieldUpdates_isFieldReg d) (fieldUpdates_distinct d) _

/-- Settles O17: each field update is its two register writes. -/
theorem configureResult : Obligations.ConfigureResult := fun _ _ => exec_gpioConfigure

/-- A completed `GPIO_CONFIGURE` was accepted, so its next state is the one of a ready port. -/
theorem gpioConfigure_next {d : Descriptor} {s t : State} (h : exec (.gpioConfigure (some d)) s = .next t) :
    t = { after (configureEvents (port s d.port) d) s with resp := ⟨.ok, false⟩ } := by
  obtain ⟨hidle, hchecks, -⟩ := operate_next.mp h
  obtain ⟨hexists, hpull, hclock⟩ := configureChecks_none.mp hchecks
  exact (Host.Outcome.next.inj ((exec_gpioConfigure ⟨hidle, hexists, hclock⟩ hpull).symm.trans h)).symm

section
variable {d : Descriptor} {s t : State} (h : exec (.gpioConfigure (some d)) s = .next t)
include h

theorem ports_gpioConfigure :
    t.ports = replayAll s.ports ((fieldUpdates d).flatMap (FieldUpdate.events d.port (port s d.port))) := by
  rw [gpioConfigure_next h, ← configureEvents_eq]
  rfl

theorem port_gpioConfigure_ne {p : PortIx} (hp : p ≠ d.port) : port t p = port s p := by
  rw [port, ports_gpioConfigure h]
  exact portAt_replayAll_of_ne (writesWithin_updates (fieldUpdates_isFieldReg d)) hp s.ports

/-- A register without a field of the descriptor is as before (R69). -/
theorem stored_gpioConfigure_of_not_mem {r : Reg} (hr : r ∉ (fieldUpdates d).map FieldUpdate.reg) :
    (port t d.port).stored r = (port s d.port).stored r := by
  rw [port, ports_gpioConfigure h]
  exact samePortBut_replayAll (writesWithin_updates (fieldUpdates_isFieldReg d)) s.ports d.port r hr

/-- A register with a field of the descriptor holds the updated value (R69). -/
theorem stored_gpioConfigure_of_mem {u : FieldUpdate} (hu : u ∈ fieldUpdates d) :
    (port t d.port).stored u.reg = some (u.value (port s d.port)) := by
  rw [port, ports_gpioConfigure h]
  exact stored_replay_updates_of_mem (fieldUpdates_isFieldReg d) (fieldUpdates_distinct d) hu s.ports

/-- Each field of the descriptor holds its code and the rest of its register is as before (R73). -/
theorem field_gpioConfigure {u : FieldUpdate} (hu : u ∈ fieldUpdates d) {ones : Word}
    (hones : 1#32 <<< u.width - 1#32 = ones) {a b : Word} (ha : (port s d.port).stored u.reg = some a)
    (hb : (port t d.port).stored u.reg = some b) :
    fieldGet u.off u.width b = u.val ∧ b &&& ~~~(ones <<< u.off) = a &&& ~~~(ones <<< u.off) := by
  obtain ⟨-, hfit, hval⟩ := fieldUpdates_fits d u hu
  have hvalue : b = fieldSet u.off u.val (fieldClear u.off u.width a) := by
    have := hb.symm.trans (stored_gpioConfigure_of_mem h hu)
    simpa [FieldUpdate.value, ha] using this
  rw [hvalue, ← hones]
  exact ⟨fieldGet_fieldSet hfit hval a, fieldClear_fieldSet hfit hval a⟩

end

theorem selector_mem_fieldUpdates {d : Descriptor} (hmode : d.mode = 0b10#2) :
    ⟨afReg d.pin, offAf d.pin, 4, d.af.zeroExtend 32⟩ ∈ fieldUpdates d := by
  simp [fieldUpdates, hmode]

/-- Settles O18: the fields lie in distinct registers, each of which R42 gives its final value. -/
theorem configureWritesFields : Obligations.ConfigureWritesFields := by
  intro d s t h q q' n
  have hnot {r : Reg} (hr : r ∉ prmWrites (.gpioConfigure (some d))) : q'.stored r = q.stored r :=
    stored_gpioConfigure_of_not_mem h (prmWrites_configure d ▸ hr)
  obtain ⟨hmode, hmodeRest⟩ := field_gpioConfigure h (u := ⟨.mode, off2 d.pin, 2, d.mode.zeroExtend 32⟩)
    (by simp [fieldUpdates]) (ones := 3#32) (by simp) rfl rfl
  obtain ⟨hotype, hotypeRest⟩ := field_gpioConfigure h (u := ⟨.otype, off1 d.pin, 1, d.otype.zeroExtend 32⟩)
    (by simp [fieldUpdates]) (ones := 1#32) (by simp) rfl rfl
  obtain ⟨hspeed, hspeedRest⟩ := field_gpioConfigure h (u := ⟨.speed, off2 d.pin, 2, d.speed.zeroExtend 32⟩)
    (by simp [fieldUpdates]) (ones := 3#32) (by simp) rfl rfl
  obtain ⟨hpull, hpullRest⟩ := field_gpioConfigure h (u := ⟨.pull, off2 d.pin, 2, d.pull.zeroExtend 32⟩)
    (by simp [fieldUpdates]) (ones := 3#32) (by simp) rfl rfl
  refine ⟨hmode, hmodeRest, hotype, hotypeRest, hspeed, hspeedRest, hpull, hpullRest, ?low, ?high, ?none⟩
  case low =>
    intro haf hn
    have hselector := selector_mem_fieldUpdates haf
    obtain ⟨hreg, hoff⟩ := afReg_offAf_low hn
    rw [hreg, hoff] at hselector
    obtain ⟨hcode, hrest⟩ := field_gpioConfigure h hselector (ones := 15#32) (by simp) rfl rfl
    exact ⟨hcode, hrest, Option.some.inj (hnot (r := .afh) (by simp [prmWrites, haf, show d.pin.toNat ≤ 7 from hn]))⟩
  case high =>
    intro haf hn
    have hselector := selector_mem_fieldUpdates haf
    obtain ⟨hreg, hoff⟩ := afReg_offAf_high hn
    rw [hreg, hoff] at hselector
    obtain ⟨hcode, hrest⟩ := field_gpioConfigure h hselector (ones := 15#32) (by simp) rfl rfl
    have hlow : ¬ d.pin.toNat ≤ 7 := Nat.not_le.mpr hn
    exact ⟨hcode, hrest, Option.some.inj (hnot (r := .afl) (by simp [prmWrites, haf, hlow]))⟩
  case none =>
    intro haf
    exact ⟨Option.some.inj (hnot (r := .afl) (by simp [prmWrites, haf])),
      Option.some.inj (hnot (r := .afh) (by simp [prmWrites, haf]))⟩

/-- Ports that agree in every register are equal. -/
theorem port_ext {q q' : Port} (h : ∀ r, q.stored r = q'.stored r) : q = q' := by
  cases q
  cases q'
  simp only [Port.mk.injEq]
  exact ⟨Option.some.inj (h .mode), Option.some.inj (h .otype), Option.some.inj (h .speed), Option.some.inj (h .pull),
    Option.some.inj (h .odata), Option.some.inj (h .lock), Option.some.inj (h .afl), Option.some.inj (h .afh)⟩

/-- A second update with the same value finds it in the field and leaves it (R42). -/
theorem FieldUpdate.value_of_stored {u : FieldUpdate} (hu : u.Fits) {q q' : Port}
    (h : q'.stored u.reg = some (u.value q)) : u.value q' = u.value q := by
  obtain ⟨-, hfit, hval⟩ := hu
  rw [FieldUpdate.value, h]
  exact fieldSet_twice hfit hval _

/-- Settles O19: updating a field a second time with the same code changes nothing (R42). -/
theorem configureTwiceIsOnce : Obligations.ConfigureTwiceIsOnce := by
  intro d s hready hpull
  obtain ⟨t, hfirst⟩ : ∃ t, exec (.gpioConfigure (some d)) s = .next t := ⟨_, exec_gpioConfigure hready hpull⟩
  have hready' : PortReady t d.port := gpioConfigure_next hfirst ▸ hready
  obtain ⟨u, hsecond⟩ : ∃ u, exec (.gpioConfigure (some d)) t = .next u := ⟨_, exec_gpioConfigure hready' hpull⟩
  refine ⟨t, u, hfirst, hsecond, ports_ext fun p => ?_⟩
  by_cases hp : p = d.port
  · subst hp
    refine port_ext fun r => ?_
    by_cases hr : r ∈ (fieldUpdates d).map FieldUpdate.reg
    · obtain ⟨x, hx, rfl⟩ := List.mem_map.mp hr
      have hstored := stored_gpioConfigure_of_mem hfirst hx
      have hvalue := FieldUpdate.value_of_stored (fieldUpdates_fits d x hx) hstored
      exact (stored_gpioConfigure_of_mem hsecond hx).trans (hvalue ▸ hstored.symm)
    · exact stored_gpioConfigure_of_not_mem hsecond hr
  · exact port_gpioConfigure_ne hsecond hp

/-! ## The frame -/

section
variable {i : Instr} {p : PortIx} {s t : State} (hi : prmPort i = some p) (h : exec i s = .next t)
include hi h

theorem portReady_of_next : PortReady s p := by
  obtain ⟨hidle, hchecks, -⟩ | ⟨hbyte, -, -⟩ := exec_next h
  · exact ⟨hidle, clockOn_iff.mp (clockOn_of_checks hi hchecks)⟩
  · cases i <;> simp [prmPort, isCommandByte] at hi hbyte

/-- A completed operation on a port is its events and its response; a read also takes the level it answers (R69 to
R72). -/
theorem prm_next : ∃ es, WritesWithin p (prmWrites i) es ∧
    t = { after es s with pads := t.pads, freeIx := t.freeIx, resp := t.resp } := by
  have hready := portReady_of_next hi h
  cases i with
  | gpioConfigure d =>
    cases d with
    | none => simp [prmPort] at hi
    | some d =>
      obtain rfl := Option.some.inj hi
      refine ⟨configureEvents (port s d.port) d, ?_, gpioConfigure_next h ▸ rfl⟩
      rw [configureEvents_eq, prmWrites_configure]
      exact writesWithin_updates (fieldUpdates_isFieldReg d)
  | gpioWrite p' n l =>
    obtain rfl := Option.some.inj hi
    obtain rfl := Host.Outcome.next.inj ((exec_gpioWrite n l hready).symm.trans h)
    exact ⟨_, writesWithin_wr (List.mem_singleton_self _), rfl⟩
  | gpioToggle p' n =>
    obtain rfl := Option.some.inj hi
    obtain rfl := Host.Outcome.next.inj ((exec_gpioToggle n hready).symm.trans h)
    exact ⟨_, writesWithin_wr (List.mem_singleton_self _), rfl⟩
  | gpioRead p' n =>
    obtain rfl := Option.some.inj hi
    obtain ⟨hqueue, hfree⟩ := gpioReadResult p' n s hready
    cases hpads : s.pads with
    | nil =>
      obtain rfl := Host.Outcome.next.inj ((hfree hpads).symm.trans h)
      exact ⟨[.rdi p' _], writesWithin_rdi, rfl⟩
    | cons v rest =>
      obtain rfl := Host.Outcome.next.inj ((hqueue v rest hpads).symm.trans h)
      exact ⟨[.rdi p' v], writesWithin_rdi, rfl⟩
  | _ => simp [prmPort] at hi

end

/-- Settles O26: what the events of the operation write is all that changes in the ports. -/
theorem prmFrame : Obligations.PrmFrame := by
  intro i s t h
  refine ⟨?absent, fun p hi => ?onPort⟩
  case absent =>
    rintro rfl
    obtain ⟨hidle, -, -⟩ := operate_next.mp ((exec_request rfl s).symm.trans h)
    obtain rfl := Host.Outcome.next.inj ((configureAbsentIsNoOp s hidle).symm.trans h)
    exact ⟨rfl, rfl, rfl, rfl, rfl, rfl, rfl⟩
  case onPort =>
    obtain ⟨es, hwithin, hstate⟩ := prm_next hi h
    have hports : t.ports = replayAll s.ports es := hstate ▸ rfl
    have htrace : t.trace = s.trace ++ es := hstate ▸ rfl
    obtain ⟨-, hlock⟩ := lockAndIdataNeverWritten i s t es h htrace
    obtain ⟨hworld, -⟩ := exec_continues h
    refine ⟨fun p' hne => ?others, ?registers, hlock p, hstate ▸ rfl, hstate ▸ rfl, hworld⟩
    all_goals unfold port; rw [hports]
    case others => exact portAt_replayAll_of_ne hwithin hne s.ports
    case registers => exact samePortBut_replayAll hwithin s.ports p

end Sys2Proof.Machine

/-! PROOFS. Each LCD instruction byte is one command transaction on the bus (spec/30_encoding.md R59, R67;
spec/41_lcd_primitives.md R78). -/

namespace Sys2Proof.Machine

theorem isCommandByte_of_encode {i : Instr} {b : Byte} (h : encode i = .command b) : isCommandByte i = true := by
  cases i with
  | gpioConfigure d => cases d <;> cases h
  | clearDisplay | returnHome | entryModeSet | displayControl | cursorDisplayShift | functionSet | setCgramAddress
  | setDdramAddress => rfl
  | _ => cases h

/-- The byte on the bus by the row of the byte encoded: the `x` bits of the three rows that have any are 0 (R59). -/
theorem busByte_of_encode {i : Instr} {b : Byte} (h : encode i = .command b) :
    busByte i =
      if b &&& 0xFE#8 = 0x02#8 then 0x02#8
      else if b &&& 0xF0#8 = 0x10#8 ∨ b &&& 0xE0#8 = 0x20#8 then b &&& 0xFC#8
      else b := by
  rw [busByte_eq h]
  cases i with
  | clearDisplay | returnHome | entryModeSet | displayControl | cursorDisplayShift | functionSet | setCgramAddress
  | setDdramAddress =>
    obtain rfl := Code.command.inj h
    clear h
    decide +revert
  | gpioConfigure d => cases d <;> cases h
  | _ => cases h

/-- Settles O42: a byte is transmitted as its encoding with the `x` bits 0, once the lines have their clocks. -/
theorem commandByteTransmitted : Obligations.CommandByteTransmitted := by
  intro i b s h
  rw [exec_commandByte (isCommandByte_of_encode h), transmit_eq, busByte_of_encode h]
  exact ⟨fun hready => if_pos (linesClocked_iff.mpr hready), fun hready => if_neg (mt linesClocked_iff.mp hready)⟩

end Sys2Proof.Machine

/-! PROOFS. The lines of the display bus under register writes: which writes move a line or its pin's mode, and which
leave all seven as they are (spec/10_state.md R12, R18; spec/41_lcd_primitives.md R75, R76, R80). -/

namespace Sys2Proof.Machine

theorem mem_roleAll (r : Role) : r ∈ Role.all := by cases r <;> decide

section
variable {m : LineMap} (hm : m.Distinct)
include hm

/-- Distinct lines are an injective map (R6 clause 5). -/
theorem eq_of_pin_eq {r r' : Role} (h : m.pin r = m.pin r') : r = r' :=
  List.inj_on_of_nodup_map hm (mem_roleAll r) (mem_roleAll r') h

end

/-! ## Writes that drive a line -/

theorem bsrWord_pin_eq {n n' : PinIx} {l l' : Level} (h : bsrWord n l = bsrWord n' l') : n = n' := by
  have hn := n.isLt
  have hn' := n'.isLt
  have hbit := congrArg (fun v => v.getLsbD (if l then n.toNat else n.toNat + 16)) h
  simp only [bsrWord_getLsbD, decide_true, eq_comm (a := true), decide_eq_true_eq] at hbit
  apply BitVec.eq_of_toNat_eq
  cases l <;> cases l' <;> simp at hbit <;> omega

/-- A write to `BSR` that is a drive of a line is one of the line's pin (R75). -/
theorem pin_of_wr_eq_driveEvent {m : LineMap} {p : PortIx} {n : PinIx} {r : Role} {l l' : Level}
    (h : Event.wr p .bsr (bsrWord n l) = driveEvent m r l') : m.pin r = ⟨p, n⟩ := by
  obtain ⟨rfl, -, hword⟩ := Event.wr.inj h
  rw [bsrWord_pin_eq hword]

theorem driveEvent_ne {m : LineMap} (hm : m.Distinct) {r r' : Role} (h : r ≠ r') (l l' : Level) :
    driveEvent m r l ≠ driveEvent m r' l' :=
  fun heq => h (eq_of_pin_eq hm (pin_of_wr_eq_driveEvent heq).symm)

theorem wr_ne_driveEvent {reg : Reg} (h : reg ≠ .bsr) (m : LineMap) (p : PortIx) (v : Word) (r : Role) (l : Level) :
    Event.wr p reg v ≠ driveEvent m r l := by
  intro heq
  obtain ⟨-, rfl, -⟩ := Event.wr.inj heq
  exact h rfl

/-! ## What leaves a line as it is -/

/-- The events, replayed from `ps`, neither drive the line of `r` nor change its level. -/
def Keeps (m : LineMap) (ps : Vector Port 16) (es : List Event) (r : Role) : Prop :=
  (∀ e ∈ es, ∀ l, e ≠ driveEvent m r l) ∧ lineLevel (replayAll ps es) m r = lineLevel ps m r

theorem keeps_nil (m : LineMap) (ps : Vector Port 16) (r : Role) : Keeps m ps [] r := ⟨by simp, rfl⟩

theorem Keeps.append {m : LineMap} {ps : Vector Port 16} {as bs : List Event} {r : Role} (ha : Keeps m ps as r)
    (hb : Keeps m (replayAll ps as) bs r) : Keeps m ps (as ++ bs) r := by
  obtain ⟨hundriven, hlevel⟩ := ha
  obtain ⟨hundriven', hlevel'⟩ := hb
  exact ⟨List.forall_mem_append.mpr ⟨hundriven, hundriven'⟩, by rw [replayAll_append, hlevel', hlevel]⟩

theorem keeps_wait (m : LineMap) (ps : Vector Port 16) (d : Nat) (r : Role) : Keeps m ps [.wait d] r :=
  ⟨by simp [driveEvent], rfl⟩

section
variable {m : LineMap} (hm : m.Distinct)
include hm

theorem keeps_drive (ps : Vector Port 16) {r r' : Role} (h : r' ≠ r) (l : Level) :
    Keeps m ps [driveEvent m r l] r' := by
  refine ⟨by simpa using fun l' => driveEvent_ne hm h.symm l l', ?_⟩
  rw [replayAll_cons, replayAll_nil, lineLevel_replay_drive hm, if_neg h]

/-- A nibble transfer writes neither register-select nor read/write (R76). -/
theorem keeps_nibble (c : Cfg) (ps : Vector Port 16) (n : Nibble) {r : Role} (h : r = .rs ∨ r = .rw) :
    Keeps m ps (nibbleEvents c m n) r := by
  have hdrive {r' : Role} (hrs : r' ≠ .rs) (hrw : r' ≠ .rw) (l l' : Level) : driveEvent m r' l ≠ driveEvent m r l' :=
    driveEvent_ne hm (by rintro rfl; exact h.elim hrs hrw) l l'
  have hwait (d : Nat) (l : Level) : Event.wait d ≠ driveEvent m r l := nofun
  constructor
  · simp [nibbleEvents, hdrive, hwait]
  · rw [lineLevel_nibble hm]
    obtain rfl | rfl := h <;> rfl

end

/-- Driving the lines of the bus leaves the modes of their pins (R12, R75). -/
theorem lineMode_replayAll_busEvents {m : LineMap} {es : List Event} (h : ∀ e ∈ es, isBusEvent m e)
    (ps : Vector Port 16) (r : Role) : lineMode (replayAll ps es) m r = lineMode ps m r := by
  have hmode := samePortBut_odata_of_busEvents h ps (m.pin r).port .mode (by decide)
  exact congrArg (fieldGet _ 2) (Option.some.inj hmode)

/-! ## Events off the lines -/

/-- Each of the events, replayed from `ps`, takes no time, drives no line and leaves every line's level. -/
def StaysOffLines (m : LineMap) : Vector Port 16 → List Event → Prop
  | _, [] => True
  | ps, e :: rest => waitOf e = 0 ∧ (∀ r, Keeps m ps [e] r) ∧ StaysOffLines m (replay ps e) rest

theorem StaysOffLines.keeps {m : LineMap} {es : List Event} {ps : Vector Port 16} (h : StaysOffLines m ps es)
    (r : Role) : Keeps m ps es r := by
  induction es generalizing ps with
  | nil => exact keeps_nil m ps r
  | cons e rest ih =>
    obtain ⟨-, he, hrest⟩ := h
    exact (he r).append (ih hrest)

theorem staysOffLines_singleton {m : LineMap} {ps : Vector Port 16} {e : Event} (hwait : waitOf e = 0)
    (h : ∀ r, Keeps m ps [e] r) : StaysOffLines m ps [e] := ⟨hwait, h, trivial⟩

theorem staysOffLines_rdi (m : LineMap) (ps : Vector Port 16) (p : PortIx) (v : BitVec 16) :
    StaysOffLines m ps [.rdi p v] := staysOffLines_singleton rfl fun _ => ⟨by simp [driveEvent], rfl⟩

/-- A write that is no drive of the line, and that leaves the line's bit if it is to the line's port. -/
theorem keeps_wr {m : LineMap} {ps : Vector Port 16} {p : PortIx} {reg : Reg} {v : Word} {r : Role}
    (hdrive : ∀ l, Event.wr p reg v ≠ driveEvent m r l)
    (hbit : (m.pin r).port = p →
      ((portAt ps p).write reg v).odata.getLsbD (m.pin r).pin.toNat = (portAt ps p).odata.getLsbD (m.pin r).pin.toNat) :
    Keeps m ps [.wr p reg v] r := by
  refine ⟨by simpa using hdrive, ?_⟩
  rw [replayAll_cons, replayAll_nil, lineLevel, portAt_replay_wr]
  split_ifs with hp
  · rw [hbit hp, ← hp, lineLevel]
  · rfl

theorem toggled_getLsbD_of_ne {n : PinIx} {k : Nat} (hk : k ≠ n.toNat) (a : Word) :
    (toggled n a).getLsbD k = a.getLsbD k := by
  obtain hlt | hgt := Nat.lt_or_gt_of_ne hk
  · simp [toggled, hlt]
  · simp [toggled, Nat.sub_ne_zero_of_lt hgt]

section
variable {m : LineMap} {p : PortIx} {n : PinIx} (hn : ¬ ownedByLcd m p n)
include hn

theorem pin_ne_of_not_owned (r : Role) : m.pin r ≠ ⟨p, n⟩ := fun heq => hn ⟨r, mem_roleAll r, heq⟩

theorem pin_toNat_ne_of_not_owned {r : Role} (hp : (m.pin r).port = p) : (m.pin r).pin.toNat ≠ n.toNat := by
  intro heq
  apply pin_ne_of_not_owned hn r
  rw [← hp, ← BitVec.eq_of_toNat_eq heq]

theorem staysOffLines_bsrWord (ps : Vector Port 16) (l : Level) : StaysOffLines m ps [.wr p .bsr (bsrWord n l)] :=
  staysOffLines_singleton rfl fun r => keeps_wr (fun _ heq => pin_ne_of_not_owned hn r (pin_of_wr_eq_driveEvent heq))
    fun hp => by rw [Port.write, applyBsr_bsrWord_getLsbD, if_neg (pin_toNat_ne_of_not_owned hn hp)]

theorem staysOffLines_toggled (ps : Vector Port 16) :
    StaysOffLines m ps [.wr p .odata (toggled n (portAt ps p).odata)] :=
  staysOffLines_singleton rfl fun r => keeps_wr (wr_ne_driveEvent (by decide) m p _ r)
    fun hp => toggled_getLsbD_of_ne (pin_toNat_ne_of_not_owned hn hp) _

end

/-! ## Field updates -/

/-- A write to a register that holds fields. -/
def isFieldEvent : Event → Prop
  | .wr _ r _ => isFieldReg r = true
  | .rdi _ _ | .wait _ => False

theorem staysOffLines_fieldEvents {es : List Event} (h : ∀ e ∈ es, isFieldEvent e) (m : LineMap)
    (ps : Vector Port 16) : StaysOffLines m ps es := by
  induction es generalizing ps with
  | nil => trivial
  | cons e rest ih =>
    obtain ⟨he, hrest⟩ := List.forall_mem_cons.mp h
    cases e with
    | rdi | wait => exact he.elim
    | wr p reg v =>
      have hodata : ((portAt ps p).write reg v).odata = (portAt ps p).odata :=
        Option.some.inj (stored_write_of_ne (r := .odata) (by rintro rfl; cases he) (by rintro rfl; cases he) _ v)
      exact ⟨rfl, fun r => keeps_wr (wr_ne_driveEvent (ne_bsr_of_isFieldReg he) m p v r) fun _ => by rw [hodata],
        ih hrest _⟩

theorem configureEvents_isFieldEvent (q : Port) (d : Descriptor) : ∀ e ∈ configureEvents q d, isFieldEvent e := by
  intro e he
  rw [configureEvents_eq] at he
  obtain ⟨u, hu, he⟩ := List.mem_flatMap.mp he
  have hreg := fieldUpdates_isFieldReg d u hu
  simp only [FieldUpdate.events, fieldEvents, List.mem_cons, List.not_mem_nil, or_false] at he
  obtain rfl | rfl := he <;> exact hreg

/-- `GPIO_CONFIGURE` puts its mode on its pin and leaves every other pin's (R69, R73). -/
theorem lineMode_configureEvents (ps : Vector Port 16) (d : Descriptor) (m : LineMap) (r : Role) :
    lineMode (replayAll ps (configureEvents (portAt ps d.port) d)) m r =
      if m.pin r = ⟨d.port, d.pin⟩ then d.mode.zeroExtend 32 else lineMode ps m r := by
  unfold lineMode
  rw [configureEvents_eq]
  obtain ⟨p, n⟩ := m.pin r
  simp only [PinRef.mk.injEq]
  by_cases hp : p = d.port
  · subst hp
    have hmem : ⟨.mode, off2 d.pin, 2, d.mode.zeroExtend 32⟩ ∈ fieldUpdates d := by simp [fieldUpdates]
    have hstored := stored_replay_updates_of_mem (p := d.port) (q := portAt ps d.port) (fieldUpdates_isFieldReg d)
      (fieldUpdates_distinct d) hmem ps
    obtain ⟨-, hfit, hval⟩ := fieldUpdates_fits d _ hmem
    rw [Option.some.inj hstored]
    by_cases hn : n = d.pin
    · rw [if_pos ⟨rfl, hn⟩, hn]
      exact fieldGet_fieldSet hfit hval _
    · have hne : n.toNat ≠ d.pin.toNat := fun heq => hn (BitVec.eq_of_toNat_eq heq)
      rw [if_neg fun h => hn h.2]
      exact fieldGet_fieldSet_other hfit hval (by unfold off2; dsimp only; omega) _
  · rw [if_neg fun h => hp h.1, portAt_replayAll_of_ne (writesWithin_updates (fieldUpdates_isFieldReg d)) hp]

end Sys2Proof.Machine

/-! PROOFS. The steps an operation's sequence is unfolded into, what each puts on the display bus, and that each keeps
the bus as R80 says (spec/41_lcd_primitives.md R74 to R80). -/

namespace Sys2Proof.Machine

/-! ## Steps as far as `SendNibble` -/

/-- The steps that assign to a flag, a session register or the response (R87 to R89, R94 to R97). -/
def isAssignment : Action → Bool
  | .selectFourBit | .entryMode _ _ | .cursor _ _ | .advance | .initDone | .respond _ _ => true
  | .fieldWrite _ _ _ _ _ | .clearField _ _ _ _ | .setField _ _ _ _ | .writeLevel _ _ _ | .readLevel _ _ | .toggle _ _
  | .drive _ _ | .wait _ | .nibble _ | .command _ | .instructionByte _ | .data _ | .latch | .setupPin _ => false

/-- The steps of a transfer, unfolded as far as `SendNibble`, and the assignments between them (R77 to R79). -/
def isTransferStep : Action → Bool
  | .drive .rs _ | .wait _ | .nibble _ => true
  | a => isAssignment a

/-- What each of these steps puts on the bus. -/
inductive Puts (c : Cfg) (m : LineMap) : Action → List Event → Prop
  | select (l : Level) : Puts c m (.drive .rs l) [driveEvent m .rs l]
  | nibble (n : Nibble) : Puts c m (.nibble n) (nibbleEvents c m n)
  | wait (d : Nat) : Puts c m (.wait d) [.wait d]
  | assignment {a : Action} (h : isAssignment a = true) : Puts c m a []

/-- Between two states the events `es` happen, and the configuration and the latched lines stay. -/
def OnBus (es : List Event) (s t : State) : Prop := Through es s t ∧ t.cfg = s.cfg ∧ t.lpd.lmap = s.lpd.lmap

theorem OnBus.trans {as bs : List Event} {s t u : State} (hst : OnBus as s t) (htu : OnBus bs t u) :
    OnBus (as ++ bs) s u := by
  obtain ⟨hthrough, hcfg, hmap⟩ := hst
  obtain ⟨hthrough', hcfg', hmap'⟩ := htu
  exact ⟨hthrough.trans hthrough', hcfg'.trans hcfg, hmap'.trans hmap⟩

theorem onBus_after (es : List Event) (s : State) : OnBus es s (after es s) := ⟨through_after es s, rfl, rfl⟩

theorem perform_transferStep {a : Action} (ha : isTransferStep a = true) {s t : State} (h : perform a s = .ok t) :
    ∃ es, Puts s.cfg s.lpd.lmap a es ∧ OnBus es s t := by
  cases a <;> simp only [isTransferStep, isAssignment, Bool.false_eq_true] at ha
  case drive r l =>
    cases r with
    | rs => exact Except.ok.inj h ▸ ⟨_, .select l, onBus_after _ s⟩
    | _ => simp at ha
  case wait d => exact Except.ok.inj h ▸ ⟨_, .wait d, onBus_after _ s⟩
  case nibble n => exact Except.ok.inj ((perform_nibble n s).symm.trans h) ▸ ⟨_, .nibble n, onBus_after _ s⟩
  case selectFourBit | entryMode | cursor | advance | initDone | respond =>
    exact Except.ok.inj h ▸ ⟨[], .assignment rfl, .of_eq rfl rfl, rfl, rfl⟩

/-- If a sequence completes, its first step completes and the rest completes from there. -/
theorem runActions_cons_ok {a : Action} {rest : List Action} {s t : State} :
    runActions (a :: rest) s = .ok t ↔ ∃ u, perform a s = .ok u ∧ runActions rest u = .ok t := by
  rw [runActions]
  cases perform a s <;> simp

theorem runActions_transferSteps {a : Action} {s t : State} (h : perform a s = .ok t) :
    runActions (transferSteps a) s = .ok t := by
  cases a with
  | command b | instructionByte b =>
    rw [perform] at h
    split at h
    · simp at h
    · exact h
  | data b => exact h
  | _ => exact (runActions_singleton _ s).trans h

/-- A completed sequence and its steps unfolded as far as `SendNibble` end in the same state. -/
theorem runActions_flatMap_transferSteps {as : List Action} {s t : State} (h : runActions as s = .ok t) :
    runActions (as.flatMap transferSteps) s = .ok t := by
  induction as generalizing s with
  | nil => exact h
  | cons a rest ih =>
    obtain ⟨u, hu, hrest⟩ := runActions_cons_ok.mp h
    exact runActions_append_ok.mpr ⟨u, runActions_transferSteps hu, ih hrest⟩

/-! ## The bus between two states -/

/-- Enable and read/write are Low (R80, first two lines). -/
def StrobesLow (m : LineMap) (ps : Vector Port 16) : Prop := lineLevel ps m .e = false ∧ lineLevel ps m .rw = false

theorem StrobesLow.of_keeps {m : LineMap} {ps : Vector Port 16} {es : List Event} (h : StrobesLow m ps)
    (hkeeps : ∀ r, Keeps m ps es r) : StrobesLow m (replayAll ps es) := by
  obtain ⟨he, hrw⟩ := h
  obtain ⟨-, he'⟩ := hkeeps .e
  obtain ⟨-, hrw'⟩ := hkeeps .rw
  exact ⟨he'.trans he, hrw'.trans hrw⟩

section
variable {es : List Event} {s t : State} (hbus : OnBus es s t)
include hbus

theorem LinesLow.of_onBus (h : LinesLow s)
    (hstrobes : StrobesLow s.lpd.lmap s.ports → StrobesLow s.lpd.lmap (replayAll s.ports es))
    (hmode : ∀ r, lineMode (replayAll s.ports es) s.lpd.lmap r = lineMode s.ports s.lpd.lmap r) : LinesLow t := by
  obtain ⟨he, hrw, houtput⟩ := h
  obtain ⟨⟨-, hports⟩, -, hmap⟩ := hbus
  obtain ⟨he', hrw'⟩ := hstrobes ⟨he, hrw⟩
  rw [LinesLow, hmap, hports]
  exact ⟨he', hrw', fun r hr => (hmode r).trans (houtput r hr)⟩

theorem RegisterSelectShown.of_keeps (h : RegisterSelectShown s) (hkeeps : Keeps s.lpd.lmap s.ports es .rs) :
    RegisterSelectShown t := by
  obtain ⟨before, l, later, htrace, hundriven, hlevel⟩ := h
  obtain ⟨⟨htrace', hports⟩, -, hmap⟩ := hbus
  obtain ⟨hundriven', hlevel'⟩ := hkeeps
  rw [RegisterSelectShown, hmap, hports]
  exact ⟨before, l, later ++ es, by simp [htrace', htrace], List.forall_mem_append.mpr ⟨hundriven, hundriven'⟩,
    hlevel'.trans hlevel⟩

theorem NibbleShown.of_keeps (h : NibbleShown s)
    (hkeeps : ∀ r ∈ [Role.e, .d0, .d1, .d2, .d3], Keeps s.lpd.lmap s.ports es r) : NibbleShown t := by
  obtain ⟨before, n, later, htrace, hundriven, hnibble⟩ := h
  obtain ⟨⟨htrace', hports⟩, hcfg, hmap⟩ := hbus
  have hlevel {r : Role} (hr : r ∈ [Role.e, .d0, .d1, .d2, .d3]) :
      lineLevel (replayAll s.ports es) s.lpd.lmap r = lineLevel s.ports s.lpd.lmap r := (hkeeps r hr).2
  rw [NibbleShown, hmap, hports, hcfg]
  refine ⟨before, n, later ++ es, by simp [htrace', htrace], ?_, ?_⟩
  · exact List.forall_mem_append.mpr ⟨hundriven, fun e he r hr l => (hkeeps r hr).1 e he l⟩
  · rw [← hnibble]
    simp only [sample]
    rw [hlevel (by decide), hlevel (by decide), hlevel (by decide), hlevel (by decide)]

/-- What leaves every line and mode as it is leaves the bus as R80 says. -/
theorem BusHolds.of_keeps (h : BusHolds s) (hkeeps : ∀ r, Keeps s.lpd.lmap s.ports es r)
    (hmode : ∀ r, lineMode (replayAll s.ports es) s.lpd.lmap r = lineMode s.ports s.lpd.lmap r) : BusHolds t := by
  obtain ⟨hlow, hselect, hnibble⟩ := h
  exact ⟨hlow.of_onBus hbus (fun hstrobes => hstrobes.of_keeps hkeeps) hmode, hselect.of_keeps hbus (hkeeps .rs),
    hnibble.of_keeps hbus fun r _ => hkeeps r⟩

end

theorem nibble_eq_bits (n : Nibble) : BitVec.ofBool (n.getLsbD 3) ++ BitVec.ofBool (n.getLsbD 2) ++
    BitVec.ofBool (n.getLsbD 1) ++ BitVec.ofBool (n.getLsbD 0) = n := by decide +revert

section
variable {s t : State} (hm : s.lpd.lmap.Distinct)
include hm

/-- After register-select is driven it is at that level (R78, R79). -/
theorem registerSelectShown_of_select {l : Level} (h : OnBus [driveEvent s.lpd.lmap .rs l] s t) :
    RegisterSelectShown t := by
  obtain ⟨⟨htrace, hports⟩, -, hmap⟩ := h
  rw [RegisterSelectShown, hmap, hports]
  exact ⟨s.trace, l, [], htrace, by simp, by simp [lineLevel_replay_drive hm]⟩

/-- After a nibble transfer the data lines show its nibble (R76). -/
theorem nibbleShown_of_nibble {n : Nibble} (h : OnBus (nibbleEvents s.cfg s.lpd.lmap n) s t) : NibbleShown t := by
  obtain ⟨⟨htrace, hports⟩, hcfg, hmap⟩ := h
  rw [NibbleShown, hmap, hports, hcfg]
  exact ⟨s.trace, n, [], by simp [htrace], by simp, by simp only [sample, lineLevel_nibble hm, nibble_eq_bits]⟩

end

/-! ## One step -/

section
variable {c : Cfg} {m : LineMap} {a : Action} {es : List Event} (h : Puts c m a es)
include h

theorem Puts.isBusEvent : ∀ e ∈ es, isBusEvent m e := by
  cases h with
  | select | wait => simp
  | nibble => exact isBusEvent_of_mem_nibbleEvents
  | assignment => simp

theorem Puts.strobesLow (hm : m.Distinct) {ps : Vector Port 16} (hlow : StrobesLow m ps) :
    StrobesLow m (replayAll ps es) := by
  cases h with
  | select l =>
    obtain ⟨he, hrw⟩ := hlow
    exact ⟨(keeps_drive hm ps (by decide) l).2.trans he, (keeps_drive hm ps (by decide) l).2.trans hrw⟩
  | nibble n =>
    obtain ⟨-, hrw⟩ := hlow
    exact ⟨lineLevel_nibble hm c ps n .e, (lineLevel_nibble hm c ps n .rw).trans hrw⟩
  | wait | assignment => exact hlow

end

section
variable {a : Action} (ha : isTransferStep a = true) {s t : State} (hm : s.lpd.lmap.Distinct) (h : perform a s = .ok t)
include ha hm h

theorem distinct_transferStep : t.lpd.lmap.Distinct := by
  obtain ⟨es, -, -, -, hmap⟩ := perform_transferStep ha h
  exact hmap ▸ hm

theorem linesLow_transferStep (hlow : LinesLow s) : LinesLow t := by
  obtain ⟨es, hputs, hbus⟩ := perform_transferStep ha h
  exact hlow.of_onBus hbus (hputs.strobesLow hm) (lineMode_replayAll_busEvents hputs.isBusEvent s.ports)

theorem registerSelectShown_transferStep (hselect : RegisterSelectShown s) : RegisterSelectShown t := by
  obtain ⟨es, hputs, hbus⟩ := perform_transferStep ha h
  cases hputs with
  | select => exact registerSelectShown_of_select hm hbus
  | nibble n => exact hselect.of_keeps hbus (keeps_nibble hm s.cfg s.ports n (.inl rfl))
  | wait d => exact hselect.of_keeps hbus (keeps_wait _ s.ports d .rs)
  | assignment => exact hselect.of_keeps hbus (keeps_nil _ s.ports .rs)

theorem nibbleShown_transferStep (hnibble : NibbleShown s) : NibbleShown t := by
  obtain ⟨es, hputs, hbus⟩ := perform_transferStep ha h
  cases hputs with
  | select l =>
    exact hnibble.of_keeps hbus fun r hr => keeps_drive hm s.ports (by rintro rfl; simp at hr) l
  | nibble => exact nibbleShown_of_nibble hm hbus
  | wait d => exact hnibble.of_keeps hbus fun r _ => keeps_wait _ s.ports d r
  | assignment => exact hnibble.of_keeps hbus fun r _ => keeps_nil _ s.ports r

theorem busHolds_transferStep (hholds : BusHolds s) : BusHolds t := by
  obtain ⟨hlow, hselect, hnibble⟩ := hholds
  exact ⟨linesLow_transferStep ha hm h hlow, registerSelectShown_transferStep ha hm h hselect,
    nibbleShown_transferStep ha hm h hnibble⟩

end

/-! ## Sequences -/

/-- What each of these steps keeps on distinct lines, a sequence of them keeps. -/
theorem runActions_transfer_induction {P : State → Prop}
    (hstep : ∀ {a}, isTransferStep a = true → ∀ {s t : State}, s.lpd.lmap.Distinct → perform a s = .ok t → P s → P t)
    {as : List Action} (has : ∀ a ∈ as, isTransferStep a = true) {s t : State} (hm : s.lpd.lmap.Distinct)
    (h : runActions as s = .ok t) (hs : P s) : P t := by
  obtain ⟨-, ht⟩ := runActions_induction (P := fun u => u.lpd.lmap.Distinct ∧ P u)
    (fun a ha _ _ hperform ⟨hmu, hu⟩ =>
      ⟨distinct_transferStep (has a ha) hmu hperform, hstep (has a ha) hmu hperform hu⟩) h ⟨hm, hs⟩
  exact ht

/-- Once a nibble has been sent, the data lines show the last one (R80). -/
theorem nibbleShown_of_mem {as : List Action} (has : ∀ a ∈ as, isTransferStep a = true) {s t : State}
    (hm : s.lpd.lmap.Distinct) (h : runActions as s = .ok t) {n : Nibble} (hn : .nibble n ∈ as) : NibbleShown t := by
  obtain ⟨first, rest, rfl⟩ := List.append_of_mem hn
  obtain ⟨hfirst, hcons⟩ := List.forall_mem_append.mp has
  obtain ⟨-, hrest⟩ := List.forall_mem_cons.mp hcons
  obtain ⟨u, hu, hsend⟩ := runActions_append_ok.mp h
  have hmu : u.lpd.lmap.Distinct :=
    runActions_transfer_induction (fun ha _ _ hm hperform _ => distinct_transferStep ha hm hperform) hfirst hm hu hm
  rw [runActions_cons (perform_nibble n u)] at hsend
  exact runActions_transfer_induction (s := after _ u) nibbleShown_transferStep hrest hmu hsend
    (nibbleShown_of_nibble hmu (onBus_after _ u))

/-! ## The LCD operations -/

/-- Every step of an LCD operation unfolds into transfer steps (R94 to R98). -/
theorem stepsOf_isTransferStep {i : Instr} (hi : isLcdOperation i = true) (s : State) :
    ∀ a ∈ (stepsOf i s).flatMap transferSteps, isTransferStep a = true := by
  have hunfold : ∀ a ∈ stepsOf i s, ∀ x ∈ transferSteps a, isTransferStep x = true := by
    cases i with
    | lcdClear | lcdHome | lcdPrintChar =>
      simp [stepsOf, clearSteps, homeSteps, charSteps, transferSteps, isTransferStep, isAssignment]
    | lcdPrintString str =>
      exact forall_mem_stringSteps (P := fun a => ∀ x ∈ transferSteps a, isTransferStep x = true)
        (fun c => by simp [transferSteps, isTransferStep]) (by simp [transferSteps, isTransferStep, isAssignment])
        (by simp [transferSteps, isTransferStep, isAssignment]) str
    | lcdSetCursor row col =>
      simp only [stepsOf, setCursorSteps]
      split_ifs <;> simp [transferSteps, isTransferStep, isAssignment]
    | _ => simp [isLcdOperation] at hi
  intro x hx
  obtain ⟨a, ha, hx⟩ := List.mem_flatMap.mp hx
  exact hunfold a ha x hx

end Sys2Proof.Machine

/-! PROOFS. `LCD_INIT` up to its power-on wait (phases P0 to P2), and the bus invariant of R80 inside the operations and
between them (spec/41_lcd_primitives.md R80; spec/42_lcd_init.md R83 to R90). -/

namespace Sys2Proof.Machine

/-! ## Phases P0 to P2 of `LCD_INIT` -/

/-- The fifteen steps of `LATCH`, `PRESET` and `PINCFG` (R83, R84, R90). -/
def initPreambleSteps : List Action :=
  .latch :: ((Role.all.map fun r => .drive r false) ++ Role.all.map .setupPin)

/-- The steps from the power-on wait on, unfolded as far as `SendNibble` (R85 to R89). -/
def initTransferSteps : List Action := (initSteps.drop initPreambleSteps.length).flatMap transferSteps

theorem initSteps_unfolded : initSteps.flatMap transferSteps = initPreambleSteps ++ initTransferSteps := rfl

theorem initTransferSteps_isTransferStep : ∀ a ∈ initTransferSteps, isTransferStep a = true := by decide

theorem runActions_drives (rs : List Role) (l : Level) (s : State) :
    runActions (rs.map fun r => .drive r l) s = .ok (after (rs.map fun r => driveEvent s.lpd.lmap r l) s) := by
  induction rs generalizing s with
  | nil => rw [List.map_nil, List.map_nil, after_nil, runActions_nil]
  | cons r rest ih =>
    rw [List.map_cons, runActions_cons (perform_drive r l s), ih, after_append]
    rfl

theorem runActions_setupPins (rs : List Role) {s : State} (h : s.lpd.lmap = s.cfg.linemap) :
    runActions (rs.map .setupPin) s = .ok (after (setupEvents s.cfg rs s.ports) s) := by
  induction rs generalizing s with
  | nil => rw [List.map_nil, setupEvents, after_nil, runActions_nil]
  | cons r rest ih =>
    rw [List.map_cons, runActions_cons (perform_setupPin r s h), ih (by exact h), after_append]
    rfl

theorem perform_latch (s : State) : perform .latch s = .ok (latchConfig s) := rfl

/-- Phases P0 to P2 latch the configured lines and append the events of R84. -/
theorem runActions_initPreambleSteps (s : State) :
    runActions initPreambleSteps s = .ok (after (initPreamble s.cfg s.ports) (latchConfig s)) := by
  rw [initPreambleSteps, runActions_cons (perform_latch s), initPreamble, ← after_append]
  exact runActions_append_ok.mpr
    ⟨_, runActions_drives Role.all false (latchConfig s), runActions_setupPins Role.all rfl⟩

/-! ### The events of phase P2 -/

theorem setupEvents_isFieldEvent (c : Cfg) (rs : List Role) (ps : Vector Port 16) :
    ∀ e ∈ setupEvents c rs ps, isFieldEvent e := by
  induction rs generalizing ps with
  | nil => simp [setupEvents]
  | cons r rest ih => exact List.forall_mem_append.mpr ⟨configureEvents_isFieldEvent _ _, ih _⟩

theorem keeps_setupEvents (m : LineMap) (c : Cfg) (rs : List Role) (ps : Vector Port 16) (r : Role) :
    Keeps m ps (setupEvents c rs ps) r :=
  (staysOffLines_fieldEvents (setupEvents_isFieldEvent c rs ps) m ps).keeps r

/-- Phase P2 makes the pins of its roles outputs, and leaves those that are (R84). -/
theorem lineMode_setupEvents (c : Cfg) (rs : List Role) (ps : Vector Port 16) (r : Role)
    (h : r ∈ rs ∨ lineMode ps c.linemap r = 0b01#32) :
    lineMode (replayAll ps (setupEvents c rs ps)) c.linemap r = 0b01#32 := by
  induction rs generalizing ps with
  | nil => simpa [setupEvents] using h
  | cons a rest ih =>
    rw [setupEvents, replayAll_append]
    apply ih
    have hmode := lineMode_configureEvents ps (lineDescriptor c a) c.linemap r
    by_cases hpin : c.linemap.pin r = c.linemap.pin a
    · exact .inr (hmode.trans (if_pos hpin))
    · obtain hmem | hout := h
      · obtain rfl | hmem := List.mem_cons.mp hmem
        · exact absurd rfl hpin
        · exact .inl hmem
      · exact .inr (hmode.trans ((if_neg hpin).trans hout))

/-! ### The bus at the power-on wait -/

theorem keeps_drives {m : LineMap} (hm : m.Distinct) {rs : List Role} {r : Role} (h : r ∉ rs) (l : Level)
    (ps : Vector Port 16) : Keeps m ps (rs.map fun r' => driveEvent m r' l) r := by
  induction rs generalizing ps with
  | nil => exact keeps_nil m ps r
  | cons a rest ih =>
    obtain ⟨hne, hrest⟩ := not_or.mp (mt List.mem_cons.mpr h)
    exact (keeps_drive hm ps hne l).append (ih hrest _)

theorem lineLevel_presets {m : LineMap} (hm : m.Distinct) (ps : Vector Port 16) (r : Role) :
    lineLevel (replayAll ps (Role.all.map fun r' => driveEvent m r' false)) m r = false := by
  cases r <;> simp [Role.all, lineLevel_replay_drive hm]

theorem lineLevel_initPreamble {c : Cfg} (hc : c.linemap.Distinct) (ps : Vector Port 16) (r : Role) :
    lineLevel (replayAll ps (initPreamble c ps)) c.linemap r = false := by
  rw [initPreamble, replayAll_append]
  exact (keeps_setupEvents _ c Role.all _ r).2.trans (lineLevel_presets hc ps r)

/-- After phases P0 to P2 enable and read/write are Low, the pins are outputs, and register-select is Low, as it was
last driven (R80, R84). -/
theorem bus_after_initPreamble {s : State} (hs : s.cfg.linemap.Distinct) :
    LinesLow (after (initPreamble s.cfg s.ports) (latchConfig s)) ∧
      RegisterSelectShown (after (initPreamble s.cfg s.ports) (latchConfig s)) := by
  constructor
  · refine ⟨lineLevel_initPreamble hs s.ports .e, lineLevel_initPreamble hs s.ports .rw, fun r hr => ?_⟩
    show lineMode (replayAll s.ports (initPreamble s.cfg s.ports)) s.cfg.linemap r = 0b01#32
    rw [initPreamble, replayAll_append]
    exact lineMode_setupEvents s.cfg Role.all _ r (.inl hr)
  · have hselect := registerSelectShown_of_select (s := latchConfig s) hs (l := false) (onBus_after _ _)
    have hrest := hselect.of_keeps (onBus_after _ _)
      ((keeps_drives hs (rs := [.rw, .e, .d0, .d1, .d2, .d3]) (by decide) false _).append
        (keeps_setupEvents s.cfg.linemap s.cfg Role.all _ .rs))
    rw [after_append] at hrest
    exact hrest

/-! ## Inside the operations -/

theorem busHolds_inside_lcdOperation {i : Instr} (hi : isLcdOperation i = true) {s₀ s t : State}
    {done left : List Action} (hsteps : (stepsOf i s₀).flatMap transferSteps = done ++ left) (hrun : runActions done s = .ok t)
    (hm : s.lpd.lmap.Distinct) (hs : BusHolds s) : BusHolds t :=
  runActions_transfer_induction busHolds_transferStep
    (fun a ha => stepsOf_isTransferStep hi s₀ a (hsteps ▸ List.mem_append_left left ha)) hm hrun hs

/-- From the end of phase P2 on all of R80 holds but for the last nibble, and that once one has been sent. -/
theorem bus_inside_lcdInit {s t : State} {done left : List Action}
    (hsteps : initSteps.flatMap transferSteps = done ++ left) (hrun : runActions done s = .ok t)
    (hs : s.cfg.linemap.Distinct) (hlength : 15 ≤ done.length) :
    LinesLow t ∧ RegisterSelectShown t ∧ ((∃ n, Action.nibble n ∈ done) → NibbleShown t) := by
  rw [initSteps_unfolded] at hsteps
  obtain ⟨more, rfl⟩ : initPreambleSteps <+: done :=
    List.prefix_of_prefix_length_le (hsteps ▸ List.prefix_append _ _) (List.prefix_append _ _) hlength
  rw [List.append_assoc] at hsteps
  have hmore : ∀ a ∈ more, isTransferStep a = true := fun a ha =>
    initTransferSteps_isTransferStep a (List.append_cancel_left hsteps ▸ List.mem_append_left left ha)
  obtain ⟨u, hu, hrest⟩ := runActions_append_ok.mp hrun
  obtain rfl := Except.ok.inj ((runActions_initPreambleSteps s).symm.trans hu)
  obtain ⟨hlow, hselect⟩ := bus_after_initPreamble hs
  refine ⟨runActions_transfer_induction linesLow_transferStep hmore hs hrest hlow,
    runActions_transfer_induction registerSelectShown_transferStep hmore hs hrest hselect, fun ⟨n, hn⟩ => ?_⟩
  obtain hpre | hn := List.mem_append.mp hn
  · simp [initPreambleSteps] at hpre
  · exact nibbleShown_of_mem hmore hs hrest hn

/-- Settles O48: every step between two points outside `SendNibble` keeps each line of R80, phases P1 and P2 establish
those that do not speak of a nibble, and each nibble the other. -/
theorem busHoldsInsideOperations : Obligations.BusHoldsInsideOperations := by
  intro i s t done left hsteps hrun
  refine ⟨fun hi hinit hm hquiet => ?lcd, ?init⟩
  case lcd => exact busHolds_inside_lcdOperation hi hsteps hrun hm (hquiet hinit)
  case init =>
    rintro rfl hs hlength
    exact bus_inside_lcdInit hsteps hrun hs hlength

/-! ## Between the operations -/

/-- A completed request ran its sequence, unfolded as far as `SendNibble`. -/
theorem exec_operation_next {i : Instr} (hi : isOperation i = true) {s t : State} (h : exec i s = .next t) :
    firstRefusal (checksOf i s) = none ∧ runActions (stepsOf i s) (accepted i (stepsOf i s) s) = .ok t := by
  rw [exec_request (isCommandByte_of_request (.inl hi))] at h
  obtain ⟨-, hchecks, hrun⟩ := operate_next.mp h
  exact ⟨hchecks, hrun⟩

theorem checksOf_lcdOperation {i : Instr} (hi : isLcdOperation i = true) (s : State) : checksOf i s = lcdChecks s := by
  cases i with
  | lcdClear | lcdHome | lcdSetCursor | lcdPrintChar | lcdPrintString => rfl
  | _ => simp [isLcdOperation] at hi

/-- Between two states the events `es` happen, off the lines of `m`, and the configuration, the LCD unit and the modes
of the lines' pins stay. -/
def OffLines (m : LineMap) (es : List Event) (s t : State) : Prop :=
  Through es s t ∧ t.cfg = s.cfg ∧ t.lpd = s.lpd ∧ StaysOffLines m s.ports es ∧
  ∀ r, lineMode (replayAll s.ports es) m r = lineMode s.ports m r

theorem OffLines.onBus {m : LineMap} {es : List Event} {s t : State} (h : OffLines m es s t) : OnBus es s t := by
  obtain ⟨hthrough, hcfg, hlpd, -⟩ := h
  exact ⟨hthrough, hcfg, by rw [hlpd]⟩

/-- An event that writes no mode register leaves the modes of the lines' pins. -/
theorem lineMode_replay {e : Event} (h : ∀ p v, e ≠ .wr p .mode v) (m : LineMap) (ps : Vector Port 16) (r : Role) :
    lineMode (replayAll ps [e]) m r = lineMode ps m r := by
  have hmode := stored_replayAll (r := .mode) (es := [e]) (fun p reg v he => ⟨?_, fun _ => by decide⟩) ps (m.pin r).port
  · exact congrArg (fieldGet _ 2) (Option.some.inj hmode)
  · rintro rfl
    exact h p v (List.mem_singleton.mp he).symm

/-- An operation of the Port Register Model that names no LCD pin leaves the lines and their pins' modes (R121). -/
theorem exec_offLines {i : Instr} {m : LineMap} (hi : isOperation i = true) (hinit : i ≠ .lcdInit)
    (hlcd : isLcdOperation i = false) (hkeeps : keepsOffLcdPins m i) {s t : State} (h : exec i s = .next t) :
    ∃ es, OffLines m es s t := by
  cases i with
  | gpioConfigure d =>
    cases d with
    | none =>
      obtain ⟨hidle, -, -⟩ := operate_next.mp ((exec_request rfl s).symm.trans h)
      obtain rfl := Host.Outcome.next.inj ((configureAbsentIsNoOp s hidle).symm.trans h)
      exact ⟨[], .of_eq rfl rfl, rfl, rfl, trivial, fun _ => rfl⟩
    | some d =>
      obtain rfl := gpioConfigure_next h
      refine ⟨_, ⟨rfl, rfl⟩, rfl, rfl, staysOffLines_fieldEvents (configureEvents_isFieldEvent _ d) m _, fun r => ?_⟩
      exact (lineMode_configureEvents s.ports d m r).trans (if_neg (pin_ne_of_not_owned hkeeps r))
  | gpioWrite p n l =>
    obtain rfl := Host.Outcome.next.inj ((exec_gpioWrite n l (portReady_of_next rfl h)).symm.trans h)
    exact ⟨_, ⟨rfl, rfl⟩, rfl, rfl, staysOffLines_bsrWord hkeeps _ l, lineMode_replay (by simp) m _⟩
  | gpioToggle p n =>
    obtain rfl := Host.Outcome.next.inj ((exec_gpioToggle n (portReady_of_next rfl h)).symm.trans h)
    exact ⟨_, ⟨rfl, rfl⟩, rfl, rfl, staysOffLines_toggled hkeeps _, lineMode_replay (by simp) m _⟩
  | gpioRead p n =>
    obtain ⟨hqueue, hfree⟩ := gpioReadResult p n s (portReady_of_next rfl h)
    cases hpads : s.pads with
    | nil =>
      obtain rfl := Host.Outcome.next.inj ((hfree hpads).symm.trans h)
      exact ⟨_, ⟨rfl, rfl⟩, rfl, rfl, staysOffLines_rdi m _ p _, fun _ => rfl⟩
    | cons v rest =>
      obtain rfl := Host.Outcome.next.inj ((hqueue v rest hpads).symm.trans h)
      exact ⟨_, ⟨rfl, rfl⟩, rfl, rfl, staysOffLines_rdi m _ p v, fun _ => rfl⟩
  | lcdInit => exact absurd rfl hinit
  | lcdClear | lcdHome | lcdSetCursor | lcdPrintChar | lcdPrintString => simp [isLcdOperation] at hlcd
  | _ => simp [isOperation] at hi

/-- A completed `LCD_INIT` leaves the bus as R80 says. -/
theorem busHolds_lcdInit {s t : State} (hs : s.cfg.linemap.Distinct) (h : exec .lcdInit s = .next t) : BusHolds t := by
  obtain ⟨-, hrun⟩ := exec_operation_next rfl h
  obtain ⟨hlow, hselect, hnibble⟩ :=
    bus_inside_lcdInit (List.append_nil _).symm (runActions_flatMap_transferSteps hrun) hs (by decide)
  exact ⟨hlow, hselect, hnibble ⟨0b0011#4, by decide⟩⟩

/-- A completed LCD operation keeps the bus as R80 says. -/
theorem busHolds_lcdOperation {i : Instr} (hi : isLcdOperation i = true) {s t : State} (hm : s.lpd.lmap.Distinct)
    (hs : BusHolds s) (h : exec i s = .next t) : BusHolds t := by
  obtain ⟨-, hrun⟩ := exec_operation_next (isOperation_of_isLcdOperation hi) h
  exact busHolds_inside_lcdOperation hi (s := accepted i (stepsOf i s) s) (List.append_nil _).symm
    (runActions_flatMap_transferSteps hrun) hm hs

/-- Settles O47: the end of an LCD operation is one of the points of O48; an operation of the Port Register Model writes
no `ODATA` bit and no mode of a pin it does not name, and no event of it is a drive of a line. -/
theorem operationsKeepBusQuiet : Obligations.OperationsKeepBusQuiet := by
  intro i s t hi hlatched hc hquiet hkeeps h hinit
  by_cases hlcdInit : i = .lcdInit
  · subst hlcdInit
    exact busHolds_lcdInit hc h
  cases hlcd : isLcdOperation i with
  | true =>
    obtain ⟨hchecks, -⟩ := exec_operation_next hi h
    obtain ⟨hinit, -⟩ := lcdChecks_none.mp (checksOf_lcdOperation hlcd s ▸ hchecks)
    obtain ⟨hmap, -⟩ := hlatched hinit
    exact busHolds_lcdOperation hlcd (hmap ▸ hc) (hquiet hinit) h
  | false =>
    obtain ⟨es, hoff⟩ := exec_offLines hi hlcdInit hlcd hkeeps h
    have hbus := hoff.onBus
    obtain ⟨-, -, hlpd, hlines, hmode⟩ := hoff
    exact (hquiet (hlpd ▸ hinit)).of_keeps hbus hlines.keeps hmode

end Sys2Proof.Machine

/-! PROOFS. The two views of R81 agree: what the controller latches, and when, is the transfer view
(spec/41_lcd_primitives.md R76 to R81; spec/42_lcd_init.md R92). -/

namespace Sys2Proof.Machine

/-! ## The transfer view of transfer steps -/

/-- The level of register-select after a step that finds it at `rs` (R78, R79). -/
def selectAfter (rs : Level) : Action → Level
  | .drive .rs l => l
  | _ => rs

/-- The items of a step that finds register-select at `rs` (R81). -/
def itemsWith (rs : Level) : Action → List Item
  | .nibble n => [.nib rs n]
  | .wait d => [.wait d]
  | _ => []

/-- The transfer view of steps of a transfer that find register-select at `rs`. -/
def viewWith : Level → List Action → List Item
  | _, [] => []
  | rs, a :: rest => itemsWith rs a ++ viewWith (selectAfter rs a) rest

theorem itemsAt_eq (s : State) (a : Action) : itemsAt s a = itemsWith (lineLevel s.ports s.lpd.lmap .rs) a := by
  cases a <;> rfl

theorem selectAfter_of_isAssignment {a : Action} (ha : isAssignment a = true) (rs : Level) : selectAfter rs a = rs := by
  cases a <;> simp_all [isAssignment, selectAfter]

theorem itemsWith_of_isAssignment {a : Action} (ha : isAssignment a = true) (rs : Level) : itemsWith rs a = [] := by
  cases a <;> simp_all [isAssignment, itemsWith]

theorem perform_transferStep_completes {a : Action} (ha : isTransferStep a = true) (s : State) :
    ∃ t, perform a s = .ok t := by
  cases a <;> simp_all [isTransferStep, isAssignment, perform]

theorem Puts.lineLevel_rs {c : Cfg} {m : LineMap} {a : Action} {es : List Event} (h : Puts c m a es) (hm : m.Distinct)
    (ps : Vector Port 16) : lineLevel (replayAll ps es) m .rs = selectAfter (lineLevel ps m .rs) a := by
  cases h with
  | select l => simp [lineLevel_replay_drive hm, selectAfter]
  | nibble n => exact lineLevel_nibble hm c ps n .rs
  | wait d => rfl
  | assignment ha => exact (selectAfter_of_isAssignment ha _).symm

/-- On distinct lines the level at each nibble is the one the last transaction drove register-select to. -/
theorem viewFrom_eq_viewWith {as : List Action} (has : ∀ a ∈ as, isTransferStep a = true) {s : State}
    (hm : s.lpd.lmap.Distinct) : viewFrom as s = viewWith (lineLevel s.ports s.lpd.lmap .rs) as := by
  induction as generalizing s with
  | nil => rfl
  | cons a rest ih =>
    obtain ⟨ha, hrest⟩ := List.forall_mem_cons.mp has
    obtain ⟨t, ht⟩ := perform_transferStep_completes ha s
    obtain ⟨es, hputs, ⟨-, hports⟩, -, hmap⟩ := perform_transferStep ha ht
    rw [viewFrom, ht, itemsAt_eq, viewWith, ← hputs.lineLevel_rs hm]
    dsimp only
    rw [ih hrest (hmap ▸ hm), hmap, hports]

/-- The steps that unfold into no others and contribute no item to the transfer view (R81). -/
def isSilent : Action → Bool
  | .command _ | .instructionByte _ | .data _ | .nibble _ | .wait _ => false
  | .fieldWrite _ _ _ _ _ | .clearField _ _ _ _ | .setField _ _ _ _ | .writeLevel _ _ _ | .readLevel _ _ | .toggle _ _
  | .drive _ _ | .latch | .setupPin _ | .selectFourBit | .entryMode _ _ | .cursor _ _ | .advance | .initDone
  | .respond _ _ => true

theorem itemsAt_of_isSilent {a : Action} (ha : isSilent a = true) (s : State) : itemsAt s a = [] := by
  cases a <;> simp_all [isSilent, itemsAt]

theorem transferSteps_of_isSilent {a : Action} (ha : isSilent a = true) : transferSteps a = [a] := by
  cases a <;> simp_all [isSilent, transferSteps]

/-- Silent steps in front of a sequence contribute nothing but the state it starts from. -/
theorem viewFrom_append_of_isSilent {as : List Action} (has : ∀ a ∈ as, isSilent a = true) {s t : State}
    (h : runActions as s = .ok t) (bs : List Action) : viewFrom (as ++ bs) s = viewFrom bs t := by
  induction as generalizing s with
  | nil => obtain rfl := Except.ok.inj h; rfl
  | cons a rest ih =>
    obtain ⟨ha, hrest⟩ := List.forall_mem_cons.mp has
    obtain ⟨u, hu, h⟩ := runActions_cons_ok.mp h
    rw [List.cons_append, viewFrom, itemsAt_of_isSilent ha, List.nil_append, hu]
    exact ih hrest h

theorem viewFrom_of_isSilent {as : List Action} (has : ∀ a ∈ as, isSilent a = true) (s : State) :
    viewFrom as s = [] := by
  induction as generalizing s with
  | nil => rfl
  | cons a rest ih =>
    obtain ⟨ha, hrest⟩ := List.forall_mem_cons.mp has
    rw [viewFrom, itemsAt_of_isSilent ha, List.nil_append]
    split
    · exact ih hrest _
    · rfl

theorem transferView_lcdOperation {i : Instr} (hi : isLcdOperation i = true) {s : State} (hm : s.lpd.lmap.Distinct) :
    transferView (stepsOf i s) s =
      viewWith (lineLevel s.ports s.lpd.lmap .rs) ((stepsOf i s).flatMap transferSteps) :=
  viewFrom_eq_viewWith (stepsOf_isTransferStep hi s) hm

theorem initPreambleSteps_isSilent : ∀ a ∈ initPreambleSteps, isSilent a = true := by decide

theorem transferView_lcdInit {s : State} (hs : s.cfg.linemap.Distinct) :
    transferView initSteps s = viewWith false initTransferSteps := by
  rw [transferView, initSteps_unfolded,
    viewFrom_append_of_isSilent initPreambleSteps_isSilent (runActions_initPreambleSteps s),
    viewFrom_eq_viewWith initTransferSteps_isTransferStep hs]
  exact congrArg (viewWith · _) (lineLevel_initPreamble hs s.ports .rs)

theorem stepsOf_isSilent {i : Instr} (hinit : i ≠ .lcdInit) (hlcd : isLcdOperation i = false) (s : State) :
    ∀ a ∈ stepsOf i s, isSilent a = true := by
  have hport {p : PortIx} (hp : prmPort i = some p) : ∀ a ∈ stepsOf i s, isSilent a = true := by
    intro a ha
    have haccess := stepsOf_isPortAction hp s a ha
    cases a <;> simp_all [isPortAction, isSilent]
  cases i with
  | gpioConfigure d =>
    cases d with
    | none => simp [stepsOf, isSilent]
    | some d => exact hport rfl
  | gpioWrite | gpioRead | gpioToggle => exact hport rfl
  | lcdInit => exact absurd rfl hinit
  | lcdClear | lcdHome | lcdSetCursor | lcdPrintChar | lcdPrintString => simp [isLcdOperation] at hlcd
  | _ => simp [stepsOf]

/-- An operation of the Port Register Model transfers nothing (R81). -/
theorem transferView_prm {i : Instr} (hinit : i ≠ .lcdInit) (hlcd : isLcdOperation i = false) (s : State) :
    transferView (stepsOf i s) s = [] := by
  refine viewFrom_of_isSilent (fun x hx => ?_) s
  obtain ⟨a, ha, hx⟩ := List.mem_flatMap.mp hx
  have hsilent := stepsOf_isSilent hinit hlcd s a ha
  rw [transferSteps_of_isSilent hsilent, List.mem_singleton] at hx
  exact hx ▸ hsilent

/-! ## The times of the latched nibbles -/

/-- Replayed from `ps`, the events latch the nibble items of `items` at the times R81 gives, whatever comes after. -/
def Transfers (c : Cfg) (m : LineMap) (ps : Vector Port 16) (es : List Event) (items : List Item) : Prop :=
  ∀ rest more, (∀ d, timedLatches m d (replayAll ps es) rest = timedItems c d more) →
    ∀ d, timedLatches m d ps (es ++ rest) = timedItems c d (items ++ more)

theorem transfers_nil (c : Cfg) (m : LineMap) (ps : Vector Port 16) : Transfers c m ps [] [] := fun _ _ h => h

theorem Transfers.append {c : Cfg} {m : LineMap} {ps : Vector Port 16} {as bs : List Event} {xs ys : List Item}
    (ha : Transfers c m ps as xs) (hb : Transfers c m (replayAll ps as) bs ys) :
    Transfers c m ps (as ++ bs) (xs ++ ys) := by
  intro rest more h d
  rw [List.append_assoc, List.append_assoc]
  rw [replayAll_append] at h
  exact ha _ _ (hb _ _ h) d

/-- Where nothing comes after, the timed latches are the timed items. -/
theorem Transfers.timedLatches_eq {c : Cfg} {m : LineMap} {ps : Vector Port 16} {es : List Event} {items : List Item}
    (h : Transfers c m ps es items) (d : Nat) : timedLatches m d ps es = timedItems c d items := by
  simpa using h [] [] (fun _ => rfl) d

/-- While enable is Low an event is no falling edge. -/
theorem timedLatches_of_low {m : LineMap} {ps : Vector Port 16} (he : lineLevel ps m .e = false) (d : Nat) (e : Event)
    (rest : List Event) : timedLatches m d ps (e :: rest) = timedLatches m (d + waitOf e) (replay ps e) rest := by
  simp [timedLatches, he]

theorem transfers_of_staysOffLines (c : Cfg) {m : LineMap} {ps : Vector Port 16} {es : List Event}
    (he : lineLevel ps m .e = false) (h : StaysOffLines m ps es) : Transfers c m ps es [] := by
  induction es generalizing ps with
  | nil => exact transfers_nil c m ps
  | cons e rest ih =>
    obtain ⟨hwait, hkeeps, hrest⟩ := h
    have he' : lineLevel (replay ps e) m .e = false := (hkeeps .e).2.trans he
    intro more items hmore d
    rw [List.cons_append, timedLatches_of_low he, hwait]
    exact ih he' hrest more items hmore d

/-- One nibble transfer: the one falling edge is the enable pulse's, `T_EH` after its rise (R76, R81). -/
theorem transfers_nibble {m : LineMap} (hm : m.Distinct) (c : Cfg) {ps : Vector Port 16} (hlow : StrobesLow m ps)
    (n : Nibble) : Transfers c m ps (nibbleEvents c m n) [.nib (lineLevel ps m .rs) n] := by
  obtain ⟨he, hrw⟩ := hlow
  intro rest more hmore d
  have hlatch : timedLatches m d ps (nibbleEvents c m n ++ rest) =
      (d + c.tEH, ⟨lineLevel ps m .rs, false, n⟩) ::
        timedLatches m c.tEL (replayAll ps (nibbleEvents c m n)) rest := by
    have hdrive (r : Role) (l : Level) : waitOf (driveEvent m r l) = 0 := rfl
    have hwait (w : Nat) : waitOf (.wait w) = w := rfl
    simpa [nibbleEvents, timedLatches, lineLevel_replay_drive hm, he, hrw, sample, hdrive, hwait]
      using nibble_eq_bits n
  rw [hlatch, hmore]
  rfl

theorem Puts.transfers {c : Cfg} {m : LineMap} {a : Action} {es : List Event} (h : Puts c m a es) (hm : m.Distinct)
    {ps : Vector Port 16} (hlow : StrobesLow m ps) : Transfers c m ps es (itemsWith (lineLevel ps m .rs) a) := by
  have ⟨he, _⟩ := hlow
  cases h with
  | select l => exact fun rest more hmore d => (timedLatches_of_low he ..).trans (hmore d)
  | nibble n => exact transfers_nibble hm c hlow n
  | wait w => exact fun rest more hmore d => (timedLatches_of_low he ..).trans (hmore (d + w))
  | assignment ha => exact itemsWith_of_isAssignment ha _ ▸ transfers_nil c m ps

/-- Between two states the bus, from enable and read/write Low to the same, transfers `items`. -/
def Transferred (items : List Item) (s t : State) : Prop :=
  ∃ es, OnBus es s t ∧ StrobesLow s.lpd.lmap t.ports ∧ Transfers s.cfg s.lpd.lmap s.ports es items

theorem Transferred.trans {xs ys : List Item} {s t u : State} (hst : Transferred xs s t) (htu : Transferred ys t u) :
    Transferred (xs ++ ys) s u := by
  obtain ⟨as, hbus, -, htransfers⟩ := hst
  obtain ⟨bs, hbus', hlow', htransfers'⟩ := htu
  have ⟨⟨_, hports⟩, hcfg, hmap⟩ := hbus
  rw [hcfg, hmap, hports] at htransfers'
  exact ⟨as ++ bs, hbus.trans hbus', hmap ▸ hlow', htransfers.append htransfers'⟩

theorem transferred_nil {s : State} (hlow : StrobesLow s.lpd.lmap s.ports) : Transferred [] s s :=
  ⟨[], ⟨.of_eq rfl rfl, rfl, rfl⟩, hlow, transfers_nil _ _ _⟩

theorem runActions_transferred {as : List Action} (has : ∀ a ∈ as, isTransferStep a = true) {s t : State}
    (hm : s.lpd.lmap.Distinct) (hlow : StrobesLow s.lpd.lmap s.ports) (h : runActions as s = .ok t) :
    Transferred (viewWith (lineLevel s.ports s.lpd.lmap .rs) as) s t := by
  induction as generalizing s with
  | nil =>
    obtain rfl := Except.ok.inj h
    exact transferred_nil hlow
  | cons a rest ih =>
    obtain ⟨ha, hrest⟩ := List.forall_mem_cons.mp has
    obtain ⟨u, hu, h⟩ := runActions_cons_ok.mp h
    obtain ⟨es, hputs, hbus⟩ := perform_transferStep ha hu
    have ⟨⟨_, hports⟩, _, hmap⟩ := hbus
    have hlow' : StrobesLow s.lpd.lmap u.ports := hports ▸ hputs.strobesLow hm hlow
    have hfirst : Transferred (itemsWith (lineLevel s.ports s.lpd.lmap .rs) a) s u :=
      ⟨es, hbus, hlow', hputs.transfers hm hlow⟩
    have hlast := ih hrest (hmap ▸ hm) (hmap ▸ hlow') h
    rw [hmap, hports, hputs.lineLevel_rs hm] at hlast
    exact hfirst.trans hlast

/-! ## One operation -/

theorem exec_lcdOperation_transferred {i : Instr} (hi : isLcdOperation i = true) {s t : State}
    (hm : s.lpd.lmap.Distinct) (hlow : StrobesLow s.lpd.lmap s.ports) (h : exec i s = .next t) :
    Transferred (transferView (stepsOf i s) s) s t := by
  obtain ⟨-, hrun⟩ := exec_operation_next (isOperation_of_isLcdOperation hi) h
  rw [transferView_lcdOperation hi hm]
  exact runActions_transferred (s := accepted i (stepsOf i s) s) (stepsOf_isTransferStep hi s) hm hlow
    (runActions_flatMap_transferSteps hrun)

/-- An operation but `LCD_INIT` that names no LCD pin transfers its transfer view (R81). -/
theorem exec_transferred {i : Instr} (hi : isOperation i = true) (hinit : i ≠ .lcdInit) {s t : State}
    (hkeeps : keepsOffLcdPins s.lpd.lmap i) (hm : s.lpd.lmap.Distinct) (hlow : StrobesLow s.lpd.lmap s.ports)
    (h : exec i s = .next t) : Transferred (transferView (stepsOf i s) s) s t := by
  cases hlcd : isLcdOperation i with
  | true => exact exec_lcdOperation_transferred hlcd hm hlow h
  | false =>
    obtain ⟨es, hoff⟩ := exec_offLines hi hinit hlcd hkeeps h
    have hbus := hoff.onBus
    obtain ⟨⟨-, hports⟩, -, -, hlines, -⟩ := hoff
    have ⟨he, _⟩ := hlow
    rw [transferView_prm hinit hlcd]
    exact ⟨es, hbus, hports ▸ hlow.of_keeps hlines.keeps, transfers_of_staysOffLines _ he hlines⟩

theorem initPreamble_reaches {s u : State} (h : runActions initPreambleSteps s = .ok u) :
    Through (initPreamble s.cfg s.ports) s u ∧ u.cfg = s.cfg ∧ u.lpd.lmap = s.cfg.linemap := by
  have hlatched : Through [] s (latchConfig s) := .of_eq rfl rfl
  obtain rfl := Except.ok.inj ((runActions_initPreambleSteps s).symm.trans h)
  exact ⟨hlatched.trans (through_after _ _), after_cfg _ _, rfl⟩

/-- `LCD_INIT` reaches its power-on wait by the events of R84, and from there on runs the transfer steps. -/
theorem exec_lcdInit_reaches {s t : State} (h : exec .lcdInit s = .next t) :
    ∃ u, Through (initPreamble s.cfg s.ports) s u ∧ u.cfg = s.cfg ∧ u.lpd.lmap = s.cfg.linemap ∧
      runActions initTransferSteps u = .ok t := by
  obtain ⟨-, hrun⟩ := exec_operation_next rfl h
  have hunfolded := runActions_flatMap_transferSteps hrun
  rw [stepsOf, initSteps_unfolded] at hunfolded
  obtain ⟨u, hu, hprotocol⟩ := runActions_append_ok.mp hunfolded
  obtain ⟨hthrough, hcfg, hmap⟩ := initPreamble_reaches hu
  exact ⟨u, hthrough, hcfg, hmap, hprotocol⟩

/-- From its power-on wait on, `LCD_INIT` transfers its transfer view. -/
theorem exec_lcdInit_transferred {s t : State} (hs : s.cfg.linemap.Distinct) (h : exec .lcdInit s = .next t) :
    ∃ u, Through (initPreamble s.cfg s.ports) s u ∧ u.cfg = s.cfg ∧ u.lpd.lmap = s.cfg.linemap ∧
      Transferred (transferView initSteps s) u t := by
  obtain ⟨u, hthrough, hcfg, hmap, hprotocol⟩ := exec_lcdInit_reaches h
  have hlevel (r : Role) : lineLevel u.ports u.lpd.lmap r = false := by
    obtain ⟨-, hports⟩ := hthrough
    rw [hports, hmap]
    exact lineLevel_initPreamble hs s.ports r
  have htransferred :=
    runActions_transferred initTransferSteps_isTransferStep (hmap ▸ hs) ⟨hlevel .e, hlevel .rw⟩ hprotocol
  rw [hlevel] at htransferred
  rw [transferView_lcdInit hs]
  exact ⟨u, hthrough, hcfg, hmap, htransferred⟩

/-- The first event after the events of R84 is the power-on wait (R85). -/
theorem exec_lcdInit_powerOn {s t : State} (h : exec .lcdInit s = .next t) :
    s.trace ++ (initPreamble s.cfg s.ports ++ [.wait 40000]) <+: t.trace := by
  obtain ⟨u, ⟨htrace, -⟩, -, -, hprotocol⟩ := exec_lcdInit_reaches h
  have hsteps : initTransferSteps = .wait Config.tPowerOn :: initTransferSteps.tail := rfl
  rw [hsteps, runActions_cons (perform_wait _ u)] at hprotocol
  obtain ⟨-, hgrows⟩ := runActions_continues hprotocol
  rwa [after_trace, htrace, List.append_assoc] at hgrows

/-! ## A session -/

theorem runAll_transferred {ops : List Instr} {s u : State}
    (hops : ∀ i ∈ ops, isOperation i = true ∧ i ≠ .lcdInit ∧ keepsOffLcdPins s.lpd.lmap i) (hm : s.lpd.lmap.Distinct)
    (hlow : StrobesLow s.lpd.lmap s.ports) (h : runAll ops s = .next u) : Transferred (sessionView ops s) s u := by
  induction ops generalizing s with
  | nil =>
    obtain rfl := Host.Outcome.next.inj h
    exact transferred_nil hlow
  | cons i rest ih =>
    obtain ⟨⟨hi, hinit, hkeeps⟩, hrest⟩ := List.forall_mem_cons.mp hops
    rw [runAll] at h
    split at h
    · rename_i t ht
      have hfirst := exec_transferred hi hinit hkeeps hm hlow ht
      have ⟨es, ⟨_, _, hmap⟩, hlow', _⟩ := hfirst
      rw [sessionView, ht]
      exact hfirst.trans (ih (hmap ▸ hrest) (hmap ▸ hm) (hmap ▸ hlow') h)
    · simp at h
    · simp at h

/-! ## The events of `LCD_INIT` -/

theorem length_setupEvents (c : Cfg) (rs : List Role) (ps : Vector Port 16) :
    (setupEvents c rs ps).length = 8 * rs.length := by
  induction rs generalizing ps with
  | nil => rfl
  | cons r rest ih =>
    rw [setupEvents, List.length_append, ih, List.length_cons]
    simp [configureEvents, fieldEvents, lineDescriptor]
    omega

theorem length_initPreamble (c : Cfg) (ps : Vector Port 16) : (initPreamble c ps).length = 63 := by
  rw [initPreamble, List.length_append, length_setupEvents]
  rfl

/-! ## The latched nibbles -/

theorem map_snd_timedLatches (m : LineMap) (d : Nat) (ps : Vector Port 16) (es : List Event) :
    (timedLatches m d ps es).map Prod.snd = latches m ps es := by
  induction es generalizing d ps with
  | nil => rfl
  | cons e rest ih =>
    rw [timedLatches, latches]
    split
    · rw [List.map_cons, ih]
    · exact ih _ _

theorem map_snd_timedItems (c : Cfg) (d : Nat) (items : List Item) :
    (timedItems c d items).map Prod.snd = latchesOf items := by
  induction items generalizing d with
  | nil => rfl
  | cons item rest ih =>
    cases item with
    | nib rs n => rw [timedItems, latchesOf, List.map_cons, ih]
    | wait w => exact ih _

/-- Settles O49: each step of the operation puts its items on the bus, and their times are left out. -/
theorem latchedNibblesAreTransferView : Obligations.LatchedNibblesAreTransferView := by
  intro i s t es hi hm he hrw h htrace
  obtain ⟨es', ⟨⟨htrace', -⟩, -⟩, -, htransfers⟩ := exec_lcdOperation_transferred hi hm ⟨he, hrw⟩ h
  obtain rfl := List.append_cancel_left (htrace.symm.trans htrace')
  rw [← map_snd_timedLatches s.lpd.lmap 0, htransfers.timedLatches_eq, map_snd_timedItems]

/-- Settles O51: phases P0 to P2 are 63 events that leave all lines Low, and every step from there on puts its items on
the bus or stays off the lines. -/
theorem latchedNibblesOfSession : Obligations.LatchedNibblesOfSession := by
  intro s t u ops es hs hinit hops hrun htrace
  obtain ⟨v, ⟨hpreamble, hports⟩, hcfg, hmap, hfirst⟩ := exec_lcdInit_transferred hs hinit
  have ⟨_, ⟨_, _, hmap'⟩, hlow, _⟩ := hfirst
  have hlines : t.lpd.lmap = s.cfg.linemap := hmap'.trans hmap
  have hsession := runAll_transferred (hlines ▸ hops) (hlines ▸ hs) (hmap' ▸ hlow) hrun
  obtain ⟨es', ⟨⟨htrace', -⟩, -⟩, -, htransfers⟩ := hfirst.trans hsession
  rw [hcfg, hmap, hports] at htransfers
  have hes : es = initPreamble s.cfg s.ports ++ es' := by
    rw [htrace, hpreamble, List.append_assoc] at htrace'
    exact List.append_cancel_left htrace'
  have hlength := length_initPreamble s.cfg s.ports
  rw [hes, List.take_left' hlength, List.drop_left' hlength]
  exact htransfers.timedLatches_eq 0

/-- Settles O50: the session with no operation after `LCD_INIT`, the times left out; the transfer view of `LCD_INIT` has
register-select Low throughout. -/
theorem latchedNibblesOfInit : Obligations.LatchedNibblesOfInit := by
  intro s t es hs h htrace
  constructor
  · have hpowerOn := exec_lcdInit_powerOn h
    rw [htrace, List.prefix_append_right_inj] at hpowerOn
    obtain ⟨rest, rfl⟩ := hpowerOn
    have hlength := length_initPreamble s.cfg s.ports
    rw [List.append_assoc, List.getElem?_append_right (Nat.le_of_eq hlength), hlength]
    rfl
  · have htimed := latchedNibblesOfSession s t t [] es hs h (by simp) rfl htrace
    rw [← map_snd_timedLatches _ 0, htimed, map_snd_timedItems, sessionView, List.append_nil]
    exact congrArg latchesOf (transferView_lcdInit hs)

end Sys2Proof.Machine

/-! PROOFS. `LCD_INIT` as a whole: the table of its steps, its acceptance, and the state it completes in
(spec/42_lcd_init.md R82 to R92). -/

namespace Sys2Proof.Machine

/-! ## The table -/

/-- Settles O41: each row of the table is read off its definition, and the sequence follows the table from its first
row. -/
theorem initTableIsStraightLine : Obligations.InitTableIsStraightLine := by
  refine ⟨?successors, rfl, fun st => ?complete, ?once, ?actions, fun _ => ?sequence, fun _ _ => ?nibble⟩
  case successors | once => decide
  case complete => cases st <;> decide
  case actions | sequence | nibble => rfl

/-! ## Steps as events and assignments -/

/-- The steps that drive the bus or wait, no command byte being `0x00`, and the assignments between them. -/
def isBusStep : Action → Bool
  | .drive _ _ | .wait _ | .nibble _ | .data _ => true
  | .command b => b != 0
  | a => isAssignment a

/-- What a step puts on the bus whose lines are those of `m` (R74 to R79). -/
def stepEvents (c : Cfg) (m : LineMap) : Action → List Event
  | .drive r l => [driveEvent m r l]
  | .wait d => [.wait d]
  | .nibble n => nibbleEvents c m n
  | .command b => commandEvents c m b
  | .data b => dataEvents c m b
  | _ => []

/-- What a step assigns (R87 to R89, R94 to R97). -/
def assign (s : State) : Action → State
  | .selectFourBit => setIf4 s
  | .entryMode id sh => setEntryMode id sh s
  | .cursor row col => setCursor row col s
  | .advance => advanceCursor s
  | .initDone => setInitDone s
  | .respond st l => respond st l s
  | _ => s

theorem after_assign (es : List Event) (a : Action) (s : State) : after es (assign s a) = assign (after es s) a := by
  cases a <;> rfl

theorem assign_cfg (a : Action) (s : State) : (assign s a).cfg = s.cfg := by cases a <;> rfl

theorem assign_lmap (a : Action) (s : State) : (assign s a).lpd.lmap = s.lpd.lmap := by cases a <;> rfl

theorem perform_busStep {a : Action} (ha : isBusStep a = true) (s : State) :
    perform a s = .ok (assign (after (stepEvents s.cfg s.lpd.lmap a) s) a) := by
  cases a with
  | drive | wait => rfl
  | nibble n => exact perform_nibble n s
  | data b => exact perform_data b s
  | command b => exact perform_command (bne_iff_ne.mp ha) s
  | selectFourBit | entryMode | cursor | advance | initDone | respond => simp only [stepEvents, after_nil]; rfl
  | _ => simp [isBusStep, isAssignment] at ha

/-- A sequence of such steps appends the events of each and makes its assignments, which no event looks at. -/
theorem runActions_busSteps {as : List Action} (has : ∀ a ∈ as, isBusStep a = true) (s : State) :
    runActions as s = .ok (as.foldl assign (after (as.flatMap (stepEvents s.cfg s.lpd.lmap)) s)) := by
  induction as generalizing s with
  | nil => rw [List.flatMap_nil, after_nil]; rfl
  | cons a rest ih =>
    obtain ⟨ha, hrest⟩ := List.forall_mem_cons.mp has
    rw [runActions_cons (perform_busStep ha s), ih hrest, assign_cfg, assign_lmap, after_assign, after_append]
    rfl

/-! ## The sequence -/

/-- The steps from the power-on wait on (R85 to R90). -/
def initProtocolSteps : List Action :=
  [.wait 40000, .nibble 0x3, .wait 4100, .nibble 0x3, .wait 100, .nibble 0x3, .nibble 0x2, .selectFourBit,
   .command 0x28, .command 0x0C, .command 0x06, .entryMode true false, .command 0x01, .wait 1520, .cursor 0 0,
   .initDone, .respond .ok false]

theorem initSteps_eq_append : initSteps = initPreambleSteps ++ initProtocolSteps := rfl

theorem initProtocolSteps_isBusStep : ∀ a ∈ initProtocolSteps, isBusStep a = true := by decide

theorem flatMap_stepEvents_initProtocolSteps (c : Cfg) :
    initProtocolSteps.flatMap (stepEvents c c.linemap) = initProtocol c := by
  simp only [initProtocolSteps, initProtocol, stepEvents, List.flatMap_cons, List.flatMap_nil, List.append_assoc,
    List.nil_append, List.append_nil]

/-- What `LCD_INIT` assigns after its first phase (R87 to R89). -/
theorem foldl_assign_initProtocolSteps (s : State) :
    initProtocolSteps.foldl assign s =
      respond .ok false (setInitDone (setCursor 0 0 (setEntryMode true false (setIf4 s)))) := rfl

/-- An accepted `LCD_INIT` appends the events of its two parts and leaves the session of the configuration (R82 to
R89). -/
theorem exec_lcdInit {s : State} (hready : InitReady s) :
    exec .lcdInit s =
      .next { after (initPreamble s.cfg s.ports ++ initProtocol s.cfg) s with
              lpd := ⟨s.cfg.linemap, s.cfg.lcdRows, s.cfg.lcdCols, 0, 0, true, false, true, true⟩,
              resp := ⟨.ok, false⟩ } := by
  obtain ⟨hidle, hlines⟩ := hready
  refine operate_accepted hidle (initChecks_none.mpr hlines) ?_
  refine (congrArg (runActions · _) initSteps_eq_append).trans
    (runActions_append_ok.mpr ⟨_, runActions_initPreambleSteps _, ?_⟩)
  have hevents := flatMap_stepEvents_initProtocolSteps s.cfg
  rw [runActions_busSteps initProtocolSteps_isBusStep]
  simp only [after_cfg, after_lpd, latchConfig_cfg, latchConfig_lpd, accepted_cfg, accepted_ports, hevents,
    after_append]
  rw [foldl_assign_initProtocolSteps]
  simp only [respond, setInitDone, setCursor, setEntryMode, setIf4, after, latchConfig, accepted, ← hidle]

/-- A completed `LCD_INIT` was accepted, so its next state is the one of a ready block. -/
theorem lcdInit_next {s t : State} (h : exec .lcdInit s = .next t) :
    t = { after (initPreamble s.cfg s.ports ++ initProtocol s.cfg) s with
          lpd := ⟨s.cfg.linemap, s.cfg.lcdRows, s.cfg.lcdCols, 0, 0, true, false, true, true⟩,
          resp := ⟨.ok, false⟩ } := by
  obtain ⟨hidle, hchecks, -⟩ := operate_next.mp h
  exact (Host.Outcome.next.inj ((exec_lcdInit ⟨hidle, initChecks_none.mp hchecks⟩).symm.trans h)).symm

theorem through_after_session (es : List Event) (s : State) (l : Lpd) (r : Resp) :
    Through es s { after es s with lpd := l, resp := r } := ⟨rfl, rfl⟩

theorem lcdInit_through {s t : State} (h : exec .lcdInit s = .next t) :
    Through (initPreamble s.cfg s.ports ++ initProtocol s.cfg) s t := by
  rw [lcdInit_next h]
  exact through_after_session ..

/-- Settles O37: the state is that of the two parts of the sequence run one after the other. -/
theorem lcdInitResult : Obligations.LcdInitResult := fun _ => exec_lcdInit

/-! ## Acceptance -/

section
variable {s : State}

theorem initChecks_missing (h : ∃ r ∈ Role.all, s.cfg.nports ≤ (s.cfg.linemap.pin r).port.toNat) :
    firstRefusal (initChecks s) = some .invalidPortHandle := by
  obtain ⟨r, hr, hport⟩ := h
  have hexist : linesExist s s.cfg.linemap = false :=
    Bool.eq_false_iff.mpr fun hall => Nat.not_lt.mpr hport (linesExist_iff.mp hall r hr)
  simp [initChecks, firstRefusal, hexist]

theorem initChecks_unclocked (hports : ∀ r ∈ Role.all, (s.cfg.linemap.pin r).port.toNat < s.cfg.nports)
    (h : ∃ r ∈ Role.all, s.clken.getLsbD (s.cfg.linemap.pin r).port.toNat = false) :
    firstRefusal (initChecks s) = some .portClockDisabled := by
  obtain ⟨r, hr, hclock⟩ := h
  have hclocked : linesClocked s s.cfg.linemap = false :=
    Bool.eq_false_iff.mpr fun hall => Bool.eq_false_iff.mp hclock (linesClocked_iff.mp hall r hr).2
  simp [initChecks, firstRefusal, linesExist_iff.mpr hports, hclocked]

end

/-- Settles O28: the first check that fails names the refusal, and once both hold the sequence completes. -/
theorem lcdInitAcceptance : Obligations.LcdInitAcceptance := by
  intro s hidle
  refine ⟨fun hmissing => ?missing, fun hports hclock => ?unclocked, fun hlines => ?accepted⟩
  case missing => exact exec_refused rfl hidle (initChecks_missing hmissing)
  case unclocked => exact exec_refused rfl hidle (initChecks_unclocked hports hclock)
  case accepted =>
    refine ⟨_, exec_lcdInit ⟨hidle, hlines⟩, ?_, rfl⟩
    rw [after_seq, hidle]

end Sys2Proof.Machine

/-! PROOFS. What one `LCD_INIT` appends: how many writes and waits, for how long, and its transfer view
(spec/41_lcd_primitives.md R81; spec/42_lcd_init.md R92; spec/70_reset_and_hazards.md R125). -/

namespace Sys2Proof.Machine

/-! ## Writes and waits -/

theorem isWr_of_isFieldEvent {e : Event} (h : isFieldEvent e) : isWr e = true := by
  cases e with
  | wr => rfl
  | rdi | wait => exact h.elim

/-- Before the power-on wait `LCD_INIT` only writes registers (R84). -/
theorem initPreamble_isWr (c : Cfg) (ps : Vector Port 16) : ∀ e ∈ initPreamble c ps, isWr e = true := by
  refine List.forall_mem_append.mpr ⟨fun e he => ?presets, fun e he => ?setup⟩
  case presets => obtain ⟨r, -, rfl⟩ := List.mem_map.mp he; rfl
  case setup => exact isWr_of_isFieldEvent (setupEvents_isFieldEvent c _ _ e he)

/-- The events are so many writes and so many waits, in any order, and take so much time (R28, R125). -/
def HasCounts (es : List Event) (writes waits time : Nat) : Prop :=
  (es.filter isWr).length = writes ∧ (es.filter isWait).length = waits ∧ es.length = writes + waits ∧
    waitTime es = time

theorem HasCounts.append {as bs : List Event} {w v d w' v' d' : Nat} (ha : HasCounts as w v d)
    (hb : HasCounts bs w' v' d') : HasCounts (as ++ bs) (w + w') (v + v') (d + d') := by
  obtain ⟨rfl, rfl, hlength, rfl⟩ := ha
  obtain ⟨rfl, rfl, hlength', rfl⟩ := hb
  refine ⟨by simp, by simp, ?_, by simp [waitTime]⟩
  rw [List.length_append, hlength, hlength']
  omega

theorem hasCounts_wait (d : Nat) : HasCounts [.wait d] 0 1 d := ⟨rfl, rfl, rfl, rfl⟩

theorem hasCounts_drive (m : LineMap) (r : Role) (l : Level) : HasCounts [driveEvent m r l] 1 0 0 :=
  ⟨rfl, rfl, rfl, rfl⟩

theorem hasCounts_of_writes {es : List Event} (h : ∀ e ∈ es, isWr e = true) : HasCounts es es.length 0 0 := by
  induction es with
  | nil => exact ⟨rfl, rfl, rfl, rfl⟩
  | cons e rest ih =>
    obtain ⟨he, hrest⟩ := List.forall_mem_cons.mp h
    have hfirst : HasCounts [e] 1 0 0 := by
      cases e with
      | wr => exact ⟨rfl, rfl, rfl, rfl⟩
      | rdi | wait => cases he
    rw [List.length_cons, Nat.add_comm]
    exact hfirst.append (ih hrest)

/-- A nibble transfer is six writes and the two waits of the enable pulse (R76). -/
theorem hasCounts_nibble (c : Cfg) (m : LineMap) (n : Nibble) : HasCounts (nibbleEvents c m n) 6 2 (c.tEH + c.tEL) :=
  ⟨rfl, rfl, rfl, by simp [waitTime, nibbleEvents, driveEvent, waitOf]⟩

/-- A command transaction is a drive of register-select and two nibble transfers (R77, R78). -/
theorem hasCounts_command (c : Cfg) (m : LineMap) (b : Byte) :
    HasCounts (commandEvents c m b) 13 4 (0 + ((c.tEH + c.tEL) + (c.tEH + c.tEL))) :=
  (hasCounts_drive m .rs false).append ((hasCounts_nibble c m _).append (hasCounts_nibble c m _))

theorem hasCounts_initPreamble (c : Cfg) (ps : Vector Port 16) : HasCounts (initPreamble c ps) 63 0 0 :=
  length_initPreamble c ps ▸ hasCounts_of_writes (initPreamble_isWr c ps)

/-- From the power-on wait on there are four waits, four nibbles and four commands (R92). -/
theorem hasCounts_initProtocol (c : Cfg) : HasCounts (initProtocol c) 76 28 (45720 + 12 * (c.tEH + c.tEL)) := by
  have hnibble := hasCounts_nibble c c.linemap
  have hcommand := hasCounts_command c c.linemap
  obtain ⟨hwrites, hwaits, hlength, htime⟩ :=
    (((((((((((hasCounts_wait 40000).append (hnibble 0x3)).append (hasCounts_wait 4100)).append (hnibble 0x3)).append
      (hasCounts_wait 100)).append (hnibble 0x3)).append (hnibble 0x2)).append (hcommand 0x28)).append
      (hcommand 0x0C)).append (hcommand 0x06)).append (hcommand 0x01)).append (hasCounts_wait 1520)
  exact ⟨hwrites, hwaits, hlength, htime.trans (by omega)⟩

/-! ## The transfer view -/

/-- No other role shares the pin of register-select: what R6 clause 5 asks of that line. -/
def SelectAlone (m : LineMap) : Prop := ∀ r ∈ Role.all, r ≠ .rs → m.pin r ≠ m.pin .rs

theorem pinRef_eq {a b : PinRef} (hport : a.port = b.port) (hpin : a.pin.toNat = b.pin.toNat) : a = b := by
  cases a
  cases b
  obtain rfl : _ = _ := hport
  obtain rfl := BitVec.eq_of_toNat_eq hpin
  rfl

/-- A wait, or a drive of a line that does not drive register-select High. -/
def leavesSelectLow (m : LineMap) (e : Event) : Prop :=
  (∃ r l, e = driveEvent m r l ∧ (r = .rs → l = false)) ∨ ∃ d, e = .wait d

section
variable {m : LineMap} (hm : SelectAlone m)
include hm

/-- On a pin of its own register-select stays Low until it is driven High (R75). -/
theorem selectLow_replayAll {es : List Event} (hes : ∀ e ∈ es, leavesSelectLow m e) {ps : Vector Port 16}
    (hlow : lineLevel ps m .rs = false) : lineLevel (replayAll ps es) m .rs = false := by
  induction es generalizing ps with
  | nil => exact hlow
  | cons e rest ih =>
    obtain ⟨he, hrest⟩ := List.forall_mem_cons.mp hes
    refine ih hrest ?_
    obtain ⟨r, l, rfl, hl⟩ | ⟨d, rfl⟩ := he
    · rw [lineLevel, odata_replay_drive]
      split_ifs with hpin
      · obtain ⟨hport, hpin⟩ := hpin
        exact hl (not_not.mp fun hr => hm r (mem_roleAll r) hr (pinRef_eq hport hpin).symm)
      · exact hlow
    · exact hlow

end

/-- Phase P1 drives register-select Low, and nothing up to the power-on wait drives it again (R84). -/
theorem selectLow_initPreamble {c : Cfg} (hc : SelectAlone c.linemap) (ps : Vector Port 16) :
    lineLevel (replayAll ps (initPreamble c ps)) c.linemap .rs = false := by
  have hdriven : lineLevel (replay ps (driveEvent c.linemap .rs false)) c.linemap .rs = false := by
    rw [lineLevel, odata_replay_drive, if_pos ⟨rfl, rfl⟩]
  have hlow : ∀ e ∈ [Role.rw, .e, .d0, .d1, .d2, .d3].map fun r => driveEvent c.linemap r false,
      leavesSelectLow c.linemap e := by
    intro e he
    obtain ⟨r, -, rfl⟩ := List.mem_map.mp he
    exact .inl ⟨r, false, rfl, fun _ => rfl⟩
  rw [initPreamble, replayAll_append]
  refine (keeps_setupEvents _ c Role.all _ .rs).2.trans ?_
  rw [Role.all, List.map_cons, replayAll_cons]
  exact selectLow_replayAll hc hlow hdriven

theorem Puts.leavesSelectLow {c : Cfg} {m : LineMap} {a : Action} {es : List Event} (h : Puts c m a es)
    (ha : a ≠ .drive .rs true) : ∀ e ∈ es, leavesSelectLow m e := by
  have hdrive {r : Role} (hr : r ≠ .rs) (l : Level) : Machine.leavesSelectLow m (driveEvent m r l) :=
    .inl ⟨r, l, rfl, fun heq => absurd heq hr⟩
  cases h with
  | select l =>
    have hl : l = false := Bool.eq_false_iff.mpr fun hl => ha (hl ▸ rfl)
    exact List.forall_mem_singleton.mpr (.inl ⟨.rs, l, rfl, fun _ => hl⟩)
  | nibble n =>
    simp only [nibbleEvents, List.forall_mem_cons]
    exact ⟨hdrive (by decide) _, hdrive (by decide) _, hdrive (by decide) _, hdrive (by decide) _,
      hdrive (by decide) _, .inr ⟨_, rfl⟩, hdrive (by decide) _, .inr ⟨_, rfl⟩, List.forall_mem_nil _⟩
  | wait d => exact List.forall_mem_singleton.mpr (.inr ⟨d, rfl⟩)
  | assignment => exact List.forall_mem_nil _

/-- Where no step drives register-select High, every nibble finds it Low (R81). -/
theorem viewFrom_of_selectLow {as : List Action}
    (has : ∀ a ∈ as, isTransferStep a = true ∧ a ≠ .drive .rs true) {s : State} (hm : SelectAlone s.lpd.lmap)
    (hlow : lineLevel s.ports s.lpd.lmap .rs = false) : viewFrom as s = as.flatMap (itemsWith false) := by
  induction as generalizing s with
  | nil => rfl
  | cons a rest ih =>
    obtain ⟨⟨ha, hcommand⟩, hrest⟩ := List.forall_mem_cons.mp has
    obtain ⟨t, ht⟩ := perform_transferStep_completes ha s
    obtain ⟨es, hputs, ⟨-, hports⟩, -, hmap⟩ := perform_transferStep ha ht
    have hlow' := selectLow_replayAll hm (hputs.leavesSelectLow hcommand) hlow
    rw [viewFrom, ht, itemsAt_eq, hlow, List.flatMap_cons]
    exact congrArg _ (ih hrest (hmap ▸ hm) (hmap ▸ hports ▸ hlow'))

theorem initTransferSteps_sendCommands : ∀ a ∈ initTransferSteps, isTransferStep a = true ∧ a ≠ .drive .rs true := by
  decide

theorem transferView_lcdInit_of_selectAlone {s : State} (hs : SelectAlone s.cfg.linemap) :
    transferView initSteps s = initTransferSteps.flatMap (itemsWith false) := by
  rw [transferView, initSteps_unfolded,
    viewFrom_append_of_isSilent initPreambleSteps_isSilent (runActions_initPreambleSteps s)]
  exact viewFrom_of_selectLow initTransferSteps_sendCommands hs (selectLow_initPreamble hs s.ports)

/-- Settles O38: phases P0 to P2 are 63 writes, the rest is counted transfer by transfer, and register-select is Low
from phase P1 on. -/
theorem lcdInitAppends : Obligations.LcdInitAppends := by
  intro s t h
  obtain ⟨hwrites, hwaits, hlength, htime⟩ :=
    (hasCounts_initPreamble s.cfg s.ports).append (hasCounts_initProtocol s.cfg)
  obtain ⟨htrace, -⟩ := lcdInit_through h
  exact ⟨_, htrace, hwrites, hwaits, hlength, htime.trans (Nat.zero_add _), transferView_lcdInit_of_selectAlone⟩

end Sys2Proof.Machine

/-! PROOFS. The pins of the display bus as phase P2 of `LCD_INIT` leaves them, and the frame of `LCD_INIT` in the ports
(spec/10_state.md R12 to R21; spec/40_gpio_ops.md R69; spec/42_lcd_init.md R84). -/

namespace Sys2Proof.Machine

/-! ## The fields of a pin -/

/-- The registers with one field for each pin (R12 to R15). -/
def pinRegs : List Reg := [.mode, .otype, .speed, .pull]

/-- Offset of a pin's field in such a register (R39). -/
def pinOff : Reg → PinIx → Nat
  | .otype, n => off1 n
  | _, n => off2 n

/-- Width of a pin's field (R12 to R15). -/
def pinWidth : Reg → Nat
  | .otype => 1
  | _ => 2

/-- The code a descriptor has for a register (R69). -/
def pinCode (d : Descriptor) : Reg → Word
  | .mode => d.mode.zeroExtend 32
  | .otype => d.otype.zeroExtend 32
  | .speed => d.speed.zeroExtend 32
  | .pull => d.pull.zeroExtend 32
  | _ => 0

/-- The code of a line's pin in a register (R84). -/
def lineCode (c : Cfg) : Reg → Word
  | .mode => 0b01#32
  | .speed => c.pinSpeed.zeroExtend 32
  | _ => 0#32

theorem pinCode_lineDescriptor (c : Cfg) (role : Role) (r : Reg) :
    pinCode (lineDescriptor c role) r = lineCode c r := by
  cases r <;> rfl

/-- What a register of a port holds; 0 for the two that hold nothing. -/
def held (ps : Vector Port 16) (p : PortIx) (r : Reg) : Word := ((portAt ps p).stored r).getD 0

/-- The field of a pin (R12 to R15). -/
def pinField (ps : Vector Port 16) (r : Reg) (x : PinRef) : Word :=
  fieldGet (pinOff r x.pin) (pinWidth r) (held ps x.port r)

/-- The update of a descriptor's pin in one of these registers (R69). -/
def pinUpdate (d : Descriptor) (r : Reg) : FieldUpdate := ⟨r, pinOff r d.pin, pinWidth r, pinCode d r⟩

theorem pinUpdate_mem {r : Reg} (hr : r ∈ pinRegs) (d : Descriptor) : pinUpdate d r ∈ fieldUpdates d := by
  fin_cases hr <;> simp [pinUpdate, fieldUpdates, pinOff, pinWidth, pinCode]

/-- The fields of two pins lie apart. -/
theorem pinOff_disjoint {n n' : PinIx} (h : n ≠ n') (r : Reg) :
    pinOff r n + pinWidth r ≤ pinOff r n' ∨ pinOff r n' + pinWidth r ≤ pinOff r n := by
  have hne : n.toNat ≠ n'.toNat := fun heq => h (BitVec.eq_of_toNat_eq heq)
  cases r <;> simp only [pinOff, pinWidth, off1, off2] <;> omega

/-! ## What a descriptor does to them -/

theorem held_configureEvents_ne (ps : Vector Port 16) (d : Descriptor) {p : PortIx} (hp : p ≠ d.port) (r : Reg) :
    held (replayAll ps (configureEvents (portAt ps d.port) d)) p r = held ps p r := by
  rw [held, configureEvents_eq, portAt_replayAll_of_ne (writesWithin_updates (fieldUpdates_isFieldReg d)) hp, held]

section
variable {r : Reg} (hr : r ∈ pinRegs)
include hr

theorem held_configureEvents_same (ps : Vector Port 16) (d : Descriptor) :
    held (replayAll ps (configureEvents (portAt ps d.port) d)) d.port r = (pinUpdate d r).value (portAt ps d.port) := by
  rw [held, configureEvents_eq]
  exact congrArg (Option.getD · 0)
    (stored_replay_updates_of_mem (fieldUpdates_isFieldReg d) (fieldUpdates_distinct d) (pinUpdate_mem hr d) ps)

/-- `GPIO_CONFIGURE` puts its codes on its pin and leaves every other pin's (R69, R73). -/
theorem pinField_configureEvents (ps : Vector Port 16) (d : Descriptor) (x : PinRef) :
    pinField (replayAll ps (configureEvents (portAt ps d.port) d)) r x =
      if x = ⟨d.port, d.pin⟩ then pinCode d r else pinField ps r x := by
  obtain ⟨-, hfit, hval⟩ := fieldUpdates_fits d _ (pinUpdate_mem hr d)
  obtain ⟨p, n⟩ := x
  simp only [PinRef.mk.injEq, pinField]
  by_cases hp : p = d.port
  · subst hp
    rw [held_configureEvents_same hr]
    by_cases hn : n = d.pin
    · rw [if_pos ⟨rfl, hn⟩, hn]
      exact fieldGet_fieldSet hfit hval _
    · rw [if_neg fun h => hn h.2]
      exact fieldGet_fieldSet_other hfit hval (pinOff_disjoint hn r) _
  · rw [if_neg fun h => hp h.1, held_configureEvents_ne ps d hp r]

/-- Phase P2 puts its codes on the pins of its roles, shared or not, and leaves every other pin's (R84). -/
theorem pinField_setupEvents (c : Cfg) (roles : List Role) (ps : Vector Port 16) (x : PinRef) :
    pinField (replayAll ps (setupEvents c roles ps)) r x =
      if ∃ role ∈ roles, c.linemap.pin role = x then lineCode c r else pinField ps r x := by
  induction roles generalizing ps with
  | nil => simp [setupEvents]
  | cons role rest ih =>
    have hfirst : pinField (replayAll ps (configureEvents (portAt ps (c.linemap.pin role).port)
        (lineDescriptor c role))) r x = if x = c.linemap.pin role then lineCode c r else pinField ps r x :=
      pinCode_lineDescriptor c role r ▸ pinField_configureEvents hr ps (lineDescriptor c role) x
    rw [setupEvents, replayAll_append, ih, hfirst]
    by_cases hrest : ∃ role' ∈ rest, c.linemap.pin role' = x
    · rw [if_pos hrest, if_pos (List.exists_mem_cons_of_exists hrest)]
    · rw [if_neg hrest]
      refine if_congr ?_ rfl rfl
      rw [List.exists_mem_cons_iff, or_iff_left hrest]
      exact eq_comm

end

/-! ## What phase P2 leaves -/

/-- What the configuration of every line leaves, phase P2 leaves. -/
theorem kept_setupEvents {α : Type} (F : Vector Port 16 → α) {c : Cfg}
    (hline : ∀ role ps,
      F (replayAll ps (configureEvents (portAt ps (c.linemap.pin role).port) (lineDescriptor c role))) = F ps)
    (roles : List Role) (ps : Vector Port 16) : F (replayAll ps (setupEvents c roles ps)) = F ps := by
  induction roles generalizing ps with
  | nil => rfl
  | cons role rest ih => rw [setupEvents, replayAll_append, ih, hline]

/-- The configuration of a line changes no register but those of the four fields (R84). -/
theorem samePortBut_lineEvents (c : Cfg) (role : Role) (ps : Vector Port 16) (p : PortIx) :
    samePortBut pinRegs (portAt ps p)
      (portAt (replayAll ps (configureEvents (portAt ps (c.linemap.pin role).port) (lineDescriptor c role))) p) := by
  have hwithin := writesWithin_updates (p := (lineDescriptor c role).port)
    (q := portAt ps (c.linemap.pin role).port) (fieldUpdates_isFieldReg (lineDescriptor c role))
  rw [← configureEvents_eq] at hwithin
  exact samePortBut_replayAll hwithin ps p

/-- The upper half of `OTYPE` holds no pin's field (R13). -/
theorem otype_upper_configureEvents (ps : Vector Port 16) (d : Descriptor) (p : PortIx) :
    (portAt (replayAll ps (configureEvents (portAt ps d.port) d)) p).otype.extractLsb' 16 16 =
      (portAt ps p).otype.extractLsb' 16 16 := by
  by_cases hp : p = d.port
  · subst hp
    obtain ⟨-, hfit, hval⟩ := fieldUpdates_fits d _ (pinUpdate_mem (r := .otype) (by decide) d)
    have hheld := held_configureEvents_same (r := .otype) (by decide) ps d
    refine (congrArg (BitVec.extractLsb' 16 16) hheld).trans (BitVec.eq_of_getLsbD_eq fun i _ => ?_)
    have hpin := d.pin.isLt
    have hbit := fieldSet_clear_outside hfit hval (portAt ps d.port).otype (i := 16 + i)
      (.inr (by simp only [pinUpdate, pinOff, pinWidth, off1]; omega))
    simp only [BitVec.getLsbD_extractLsb']
    exact congrArg _ hbit
  · exact congrArg (BitVec.extractLsb' 16 16) (held_configureEvents_ne ps d hp .otype)

/-! ## `LCD_INIT` -/

theorem isBusEvent_of_mem_stepEvents {c : Cfg} {m : LineMap} {a : Action} : ∀ e ∈ stepEvents c m a, isBusEvent m e := by
  cases a with
  | drive | wait => exact List.forall_mem_singleton.mpr (by simp)
  | nibble => exact isBusEvent_of_mem_nibbleEvents
  | command => exact isBusEvent_of_mem_commandEvents
  | data => exact isBusEvent_of_mem_dataEvents
  | _ => exact List.forall_mem_nil _

theorem isBusEvent_of_mem_initProtocol {c : Cfg} : ∀ e ∈ initProtocol c, isBusEvent c.linemap e := by
  intro e he
  rw [← flatMap_stepEvents_initProtocolSteps] at he
  obtain ⟨a, -, he⟩ := List.mem_flatMap.mp he
  exact isBusEvent_of_mem_stepEvents e he

/-- Driving the lines of the bus leaves the fields of every pin (R75). -/
theorem pinField_busEvents {m : LineMap} {es : List Event} (h : ∀ e ∈ es, isBusEvent m e) {r : Reg}
    (hr : r ∈ pinRegs) (ps : Vector Port 16) (x : PinRef) : pinField (replayAll ps es) r x = pinField ps r x := by
  have hne : r ∉ [Reg.odata] := by fin_cases hr <;> decide
  rw [pinField, held, samePortBut_odata_of_busEvents h ps x.port r hne]
  rfl

section
variable {s t : State} (h : exec .lcdInit s = .next t)
include h

/-- The ports change by driving the lines (P1), by configuring their pins (P2), and by driving the lines again. -/
theorem ports_lcdInit : ∃ before later : List Event,
    (∀ e ∈ before, isBusEvent s.cfg.linemap e) ∧ (∀ e ∈ later, isBusEvent s.cfg.linemap e) ∧
    t.ports = replayAll (replayAll (replayAll s.ports before)
      (setupEvents s.cfg Role.all (replayAll s.ports before))) later := by
  refine ⟨Role.all.map fun r => driveEvent s.cfg.linemap r false, initProtocol s.cfg, fun e he => ?_,
    isBusEvent_of_mem_initProtocol, ?_⟩
  · obtain ⟨r, -, rfl⟩ := List.mem_map.mp he
    exact isBusEvent_drive ..
  · obtain ⟨-, hports⟩ := lcdInit_through h
    rw [hports, replayAll_append, initPreamble, replayAll_append]

/-- What driving the lines and the configuration of every line leave, `LCD_INIT` leaves. -/
theorem kept_lcdInit {α : Type} (F : Vector Port 16 → α)
    (hbus : ∀ es, (∀ e ∈ es, isBusEvent s.cfg.linemap e) → ∀ ps, F (replayAll ps es) = F ps)
    (hline : ∀ role ps, F (replayAll ps (configureEvents (portAt ps (s.cfg.linemap.pin role).port)
      (lineDescriptor s.cfg role))) = F ps) : F t.ports = F s.ports := by
  obtain ⟨before, later, hbefore, hlater, hports⟩ := ports_lcdInit h
  rw [hports, hbus _ hlater, kept_setupEvents F hline, hbus _ hbefore]

theorem pinField_lcdInit {r : Reg} (hr : r ∈ pinRegs) (x : PinRef) :
    pinField t.ports r x =
      if ∃ role ∈ Role.all, s.cfg.linemap.pin role = x then lineCode s.cfg r else pinField s.ports r x := by
  obtain ⟨before, later, hbefore, hlater, hports⟩ := ports_lcdInit h
  rw [hports, pinField_busEvents hlater hr, pinField_setupEvents hr, pinField_busEvents hbefore hr]

/-- `LCD_INIT` changes no register but `ODATA` and those of the four fields (R84). -/
theorem samePortBut_lcdInit (p : PortIx) : samePortBut (.odata :: pinRegs) (port s p) (port t p) := by
  intro r hr
  obtain ⟨hodata, hpin⟩ := not_or.mp (mt List.mem_cons.mpr hr)
  exact kept_lcdInit h (fun ps => (portAt ps p).stored r)
    (fun es hes ps => samePortBut_odata_of_busEvents hes ps p r (mt List.mem_singleton.mp hodata))
    (fun role ps => samePortBut_lineEvents s.cfg role ps p r hpin)

theorem otype_upper_lcdInit (p : PortIx) :
    (port t p).otype.extractLsb' 16 16 = (port s p).otype.extractLsb' 16 16 :=
  kept_lcdInit h (fun ps => (portAt ps p).otype.extractLsb' 16 16)
    (fun es hes ps => congrArg (BitVec.extractLsb' 16 16)
      (Option.some.inj (samePortBut_odata_of_busEvents hes ps p .otype (by decide))))
    (fun role ps => otype_upper_configureEvents ps (lineDescriptor s.cfg role) p)

/-- What driving the lines leaves of `ODATA`, `LCD_INIT` leaves: phase P2 does not write it. -/
theorem odata_lcdInit {α : Type} (F : Word → α) (p : PortIx)
    (hbus : ∀ es, (∀ e ∈ es, isBusEvent s.cfg.linemap e) → ∀ ps,
      F (portAt (replayAll ps es) p).odata = F (portAt ps p).odata) : F (port t p).odata = F (port s p).odata :=
  kept_lcdInit h (fun ps => F (portAt ps p).odata) hbus
    (fun role ps => congrArg F (Option.some.inj (samePortBut_lineEvents s.cfg role ps p .odata (by decide))))

end

/-- Settles O39: phase P2 writes the fields of the seven pins and no others, the rest of the operation drives the
lines. -/
theorem lcdInitPins : Obligations.LcdInitPins := by
  intro s t h
  refine ⟨fun role hrole => ?lines, fun p n hn => ?others, fun p => ?registers⟩
  case lines =>
    have hfield {r : Reg} (hr : r ∈ pinRegs) : pinField t.ports r (s.cfg.linemap.pin role) = lineCode s.cfg r :=
      (pinField_lcdInit h hr _).trans (if_pos ⟨role, hrole, rfl⟩)
    exact ⟨hfield (r := .mode) (by decide), hfield (r := .otype) (by decide), hfield (r := .speed) (by decide),
      hfield (r := .pull) (by decide)⟩
  case others =>
    have hfield {r : Reg} (hr : r ∈ pinRegs) : pinField t.ports r ⟨p, n⟩ = pinField s.ports r ⟨p, n⟩ :=
      (pinField_lcdInit h hr _).trans (if_neg hn)
    exact ⟨hfield (r := .mode) (by decide), hfield (r := .otype) (by decide), hfield (r := .speed) (by decide),
      hfield (r := .pull) (by decide),
      odata_lcdInit h (·.getLsbD n.toNat) p fun es hes => odata_bit_of_not_owned hes hn⟩
  case registers =>
    have hkept := samePortBut_lcdInit h p
    exact ⟨Option.some.inj (hkept .lock (by decide)), Option.some.inj (hkept .afl (by decide)),
      Option.some.inj (hkept .afh (by decide)), otype_upper_lcdInit h p,
      odata_lcdInit h (BitVec.extractLsb' 16 16) p fun es hes ps => odata_upper_of_busEvents hes ps p⟩

end Sys2Proof.Machine

/-! PROOFS. The lines of the display bus as a completed `LCD_INIT` leaves them (spec/41_lcd_primitives.md R78, R80;
spec/42_lcd_init.md R88, R89). -/

namespace Sys2Proof.Machine

/-- A command transaction leaves register-select Low and its low nibble on the data lines (R76 to R78). -/
theorem sample_commandEvents {m : LineMap} (hm : m.Distinct) (c : Cfg) (ps : Vector Port 16) (b : Byte) :
    sample (replayAll ps (commandEvents c m b)) m = ⟨false, lineLevel ps m .rw, lowNibble b⟩ := by
  simp only [commandEvents, byteEvents, replayAll_cons, replayAll_append, sample, lineLevel_nibble hm,
    lineLevel_replay_drive hm, nibble_eq_bits]
  rfl

/-- The last transaction of `LCD_INIT` is the command Clear-Display (R88). -/
theorem initProtocol_eq_append_clear (c : Cfg) :
    ∃ es, initProtocol c = es ++ commandEvents c c.linemap 0x01#8 ++ [Event.wait 1520] := ⟨_, rfl⟩

theorem sample_lcdInit {s t : State} (hs : s.cfg.linemap.Distinct) (h : exec .lcdInit s = .next t) :
    ∃ level, sample t.ports t.lpd.lmap = ⟨false, level, 0b0001#4⟩ := by
  obtain ⟨es, hes⟩ := initProtocol_eq_append_clear s.cfg
  rw [lcdInit_next h, hes]
  simp only [after_ports, replayAll_append, replayAll_cons, replayAll_nil, replay_wait, sample_commandEvents hs]
  exact ⟨_, rfl⟩

/-- Settles O40: the bus is as R80 says, so read/write is Low, and the last transaction shows the rest. -/
theorem lcdInitLines : Obligations.LcdInitLines := by
  intro s t hs h
  have hholds := busHolds_lcdInit hs h
  have ⟨⟨_, hrw, _⟩, _⟩ := hholds
  obtain ⟨level, hsample⟩ := sample_lcdInit hs h
  have hlevel : level = false := (congrArg Latch.rw hsample).symm.trans hrw
  exact ⟨fun _ => hholds, hlevel ▸ hsample⟩

end Sys2Proof.Machine

/-! PROOFS. The five LCD operations after initialization: when they are refused, and what each appends and assigns once
accepted (spec/43_lcd_ops.md R93 to R98, R100; spec/60_exceptions.md R107, R108). -/

namespace Sys2Proof.Machine

/-! ## An accepted operation -/

/-- An LCD operation drives the bus, waits and assigns (R94 to R98). -/
theorem stepsOf_isBusStep {i : Instr} (hi : isLcdOperation i = true) (s : State) :
    ∀ a ∈ stepsOf i s, isBusStep a = true := by
  cases i with
  | lcdClear | lcdHome => simp only [stepsOf]; decide
  | lcdPrintChar c => simp [stepsOf, charSteps, isBusStep, isAssignment]
  | lcdPrintString str => exact forall_mem_stringSteps (P := (isBusStep · = true)) (fun _ => rfl) rfl rfl str
  | lcdSetCursor row col =>
    by_cases hrange : cursorInRange s row col
    · obtain ⟨hrow, hcol⟩ := hrange
      simp only [stepsOf, setCursorSteps_inRange hrow hcol, List.forall_mem_cons]
      exact ⟨bne_iff_ne.mpr (setDdramByte_ne_zero _), rfl, rfl, by simp⟩
    · simp only [stepsOf, setCursorSteps_outOfRange hrange, List.forall_mem_singleton]
      rfl
  | _ => simp [isLcdOperation] at hi

/-- An accepted LCD operation appends the events of its steps and makes their assignments. -/
theorem exec_lcdOperation {i : Instr} (hi : isLcdOperation i = true) {s : State} (hready : LcdReady s) :
    exec i s = .next ((stepsOf i s).foldl assign
      (after ((stepsOf i s).flatMap (stepEvents s.cfg s.lpd.lmap)) (accepted i (stepsOf i s) s))) := by
  obtain ⟨hidle, haccept⟩ := hready
  rw [exec_request (isCommandByte_of_isLcdOperation hi), checksOf_lcdOperation hi]
  exact operate_accepted hidle (lcdChecks_none.mpr haccept) (runActions_busSteps (stepsOf_isBusStep hi s) _)

/-! ## Acceptance -/

section
variable {s : State}

theorem lcdChecks_notInitialised (h : s.lpd.initDone = false) :
    firstRefusal (lcdChecks s) = some .lcdNotInitialised := by
  simp [lcdChecks, firstRefusal, h]

theorem lcdChecks_unclocked (hinit : s.lpd.initDone = true)
    (h : ∃ r ∈ Role.all, s.clken.getLsbD (s.lpd.lmap.pin r).port.toNat = false) :
    firstRefusal (lcdChecks s) = some .portClockDisabled := by
  obtain ⟨r, hr, hclock⟩ := h
  have hclocked : linesClocked s s.lpd.lmap = false :=
    Bool.eq_false_iff.mpr fun hall => Bool.eq_false_iff.mp hclock (linesClocked_iff.mp hall r hr).2
  simp [lcdChecks, firstRefusal, hinit, hclocked]

end

/-- Settles O27: the first check that fails names the refusal, and once both hold the sequence runs to its response. -/
theorem lcdAcceptance : Obligations.LcdAcceptance := by
  intro i s hi
  have hrequest := isCommandByte_of_isLcdOperation hi
  have hchecks := checksOf_lcdOperation hi s
  refine ⟨fun hbusy => ?busy, fun hidle hinit => ?notInitialised, fun hidle hinit hclock => ?unclocked,
    fun hready => ?accepted⟩
  case busy => exact busyBlockTakesNoRequest i s (.inl (isOperation_of_isLcdOperation hi)) hbusy
  case notInitialised => exact exec_refused hrequest hidle (hchecks ▸ lcdChecks_notInitialised hinit)
  case unclocked => exact exec_refused hrequest hidle (hchecks ▸ lcdChecks_unclocked hinit hclock)
  case accepted =>
    have ⟨hidle, _⟩ := hready
    have hnext := exec_lcdOperation hi hready
    obtain ⟨-, hseq⟩ := exec_lcdOperation_next hi hnext
    exact ⟨_, hnext, hseq.trans hidle⟩

/-! ## `LCD_CLEAR` and `LCD_HOME` -/

/-- A command, the wait of Clear-Display, and the cursor at the origin (R94, R95). -/
theorem exec_homesCursor {i : Instr} (hi : isLcdOperation i = true) {b : Byte} {s : State}
    (hsteps : stepsOf i s = [.command b, .wait Config.tClear, .cursor 0 0, .respond .ok false]) (hready : LcdReady s) :
    exec i s = .next { after (commandEvents s.cfg s.lpd.lmap b ++ [.wait 1520]) s with
                       lpd := { s.lpd with curRow := 0, curCol := 0 }, resp := ⟨.ok, false⟩ } := by
  have ⟨hidle, _⟩ := hready
  have hevents (c : Cfg) (m : LineMap) :
      [Action.command b, .wait Config.tClear, .cursor 0 0, .respond .ok false].flatMap (stepEvents c m) =
        commandEvents c m b ++ [.wait 1520] := rfl
  have hassign (m : State) :
      [Action.command b, .wait Config.tClear, .cursor 0 0, .respond .ok false].foldl assign m =
        respond .ok false (setCursor 0 0 m) := rfl
  rw [exec_lcdOperation hi hready, hsteps, hevents, hassign]
  simp only [respond, setCursor, after, accepted, ← hidle]

/-- Settles O29: the sequence of `LCD_CLEAR` is Clear-Display, its wait, and the cursor at the origin. -/
theorem lcdClearResult : Obligations.LcdClearResult := fun _ => exec_homesCursor rfl rfl

/-- Settles O30: the sequence of `LCD_HOME` is that of `LCD_CLEAR` with the command Return-Home. -/
theorem lcdHomeResult : Obligations.LcdHomeResult := fun _ => exec_homesCursor rfl rfl

/-! ## `LCD_SET_CURSOR` -/

/-- Settles O31: the command byte is the truncated sum with its highest bit set. -/
theorem setCursorInRange : Obligations.SetCursorInRange := by
  intro row col s hready hrow hcol
  rw [exec_lcdSetCursor_inRange hready hrow hcol, setDdramByte_ddramAddress]

/-- Settles O33: out of range the sequence is its response alone. -/
theorem setCursorOutOfRange : Obligations.SetCursorOutOfRange := by
  intro row col s hready hout
  obtain ⟨hidle, haccept⟩ := hready
  have hrange : ¬ cursorInRange s row col := fun ⟨hrow, hcol⟩ => by omega
  refine operate_accepted hidle (lcdChecks_none.mpr haccept) ?_
  rw [setCursorSteps_outOfRange hrange]
  simp only [runActions, perform, respond, accepted, ← hidle]

/-! ## `LCD_PRINT_CHAR` and `LCD_PRINT_STRING` -/

/-- The tracked column `n` characters on, in the direction of `EM_ID`, modulo 256 (R97, R98). -/
def colAfter (l : Lpd) (n : Nat) : Byte :=
  BitVec.ofNat 8 (if l.emId then l.curCol.toNat + n else l.curCol.toNat + 255 * n)

/-- The state after the characters of a string are printed from `s` (R98). -/
def printed (str : List Byte) (s : State) : State :=
  { after (str.flatMap (dataEvents s.cfg s.lpd.lmap)) s with
    lpd := { s.lpd with curCol := colAfter s.lpd str.length }, resp := ⟨.ok, false⟩ }

theorem colAfter_zero (l : Lpd) : colAfter l 0 = l.curCol := by simp [colAfter]

/-- Printing on from a column reached by printing. -/
theorem colAfter_add (l : Lpd) (m n : Nat) : colAfter { l with curCol := colAfter l m } n = colAfter l (m + n) := by
  apply BitVec.eq_of_toNat_eq
  cases hid : l.emId <;> simp [colAfter, hid] <;> omega

theorem advancedCol_eq_colAfter (l : Lpd) : advancedCol l = colAfter l 1 := by
  apply BitVec.eq_of_toNat_eq
  cases hid : l.emId <;> simp [colAfter, advancedCol, hid]; omega

theorem foldl_assign_charSteps (str : List Byte) (s : State) :
    (str.flatMap charSteps).foldl assign s = { s with lpd := { s.lpd with curCol := colAfter s.lpd str.length } } := by
  induction str generalizing s with
  | nil => simp only [List.flatMap_nil, List.foldl_nil, List.length_nil, colAfter_zero]
  | cons c rest ih =>
    have hfirst : (charSteps c).foldl assign s = advanceCursor s := rfl
    rw [List.flatMap_cons, List.foldl_append, hfirst, ih, advanceCursor_lpd, advancedCol_eq_colAfter, colAfter_add,
      List.length_cons, Nat.add_comm]
    rfl

theorem flatMap_stepEvents_charSteps (str : List Byte) (c : Cfg) (m : LineMap) :
    (str.flatMap charSteps).flatMap (stepEvents c m) = str.flatMap (dataEvents c m) := by
  have hchar : ∀ b, (charSteps b).flatMap (stepEvents c m) = dataEvents c m b := fun b => List.append_nil _
  simp only [List.flatMap_assoc, hchar]

theorem flatMap_stepEvents_stringSteps (str : List Byte) (c : Cfg) (m : LineMap) :
    (stringSteps str).flatMap (stepEvents c m) = str.flatMap (dataEvents c m) := by
  have hrespond : [Action.respond .ok false].flatMap (stepEvents c m) = [] := rfl
  rw [stringSteps, List.flatMap_append, flatMap_stepEvents_charSteps, hrespond, List.append_nil]

theorem foldl_assign_stringSteps (str : List Byte) (s : State) :
    (stringSteps str).foldl assign s =
      respond .ok false { s with lpd := { s.lpd with curCol := colAfter s.lpd str.length } } := by
  rw [stringSteps, List.foldl_append, foldl_assign_charSteps]
  rfl

/-- An operation whose sequence is that of a string prints the string (R97, R98). -/
theorem exec_prints {i : Instr} (hi : isLcdOperation i = true) {str : List Byte} {s : State}
    (hsteps : stepsOf i s = stringSteps str) (hready : LcdReady s) : exec i s = .next (printed str s) := by
  have ⟨hidle, _⟩ := hready
  rw [exec_lcdOperation hi hready, hsteps, flatMap_stepEvents_stringSteps, foldl_assign_stringSteps]
  simp only [respond, after, accepted, printed, ← hidle]

theorem exec_lcdPrintString (str : List Byte) {s : State} (hready : LcdReady s) :
    exec (.lcdPrintString str) s = .next (printed str s) := exec_prints rfl rfl hready

/-- A character is printed as the string of it alone. -/
theorem exec_lcdPrintChar (c : Byte) {s : State} (hready : LcdReady s) :
    exec (.lcdPrintChar c) s = .next (printed [c] s) := exec_prints rfl rfl hready

/-- Settles O34: what a string of one character leaves. -/
theorem printCharResult : Obligations.PrintCharResult := by
  intro c s hready
  rw [exec_lcdPrintChar c hready]
  simp [printed, colAfter]

/-- Settles O35: each character adds its transaction and moves the column by one, by induction on the string. -/
theorem printStringResult : Obligations.PrintStringResult := fun str _ => exec_lcdPrintString str

theorem lcdReady_printed (str : List Byte) {s : State} (hready : LcdReady s) : LcdReady (printed str s) := hready

/-- Printing one string and then another is printing both as one. -/
theorem printed_append (as bs : List Byte) (s : State) : printed bs (printed as s) = printed (as ++ bs) s := by
  simp only [printed, List.flatMap_append, List.length_append, ← colAfter_add, ← after_append]
  rfl

/-- Settles O36: every split of the string is a split of what is printed. -/
theorem printStringIsItsCharacters : Obligations.PrintStringIsItsCharacters := by
  intro as bs c s hready
  have hready' := lcdReady_printed as hready
  refine ⟨_, _, exec_lcdPrintString as hready, exec_lcdPrintChar c hready', ?_, _,
    exec_lcdPrintString bs (lcdReady_printed [c] hready'), ?_⟩
  · rw [exec_lcdPrintString _ hready, printed_append]
  · rw [exec_lcdPrintString _ hready, printed_append, printed_append, List.singleton_append]

end Sys2Proof.Machine

/-! PROOFS. Which LCD instructions the operations send, and that no LCD operation reads (spec/43_lcd_ops.md R99;
spec/30_encoding.md R59, R67). -/

namespace Sys2Proof.Machine

/-! ## What is sent -/

/-- The LCD instructions operation `i` may send: those of R99, their `x` bits 0 (R59, R67). -/
def maySend (i : Instr) : Instr → Prop
  | .clearDisplay | .setDdramAddress _ => True
  | .returnHome x => x = 0
  | .functionSet _ _ _ x => i = .lcdInit ∧ x = 0
  | .entryModeSet _ _ | .displayControl _ _ _ => i = .lcdInit
  | _ => False

theorem decodeByte_setDdramByte (a : BitVec 7) : decodeByte (setDdramByte a) = .ok (.setDdramAddress a) := by
  decide +revert

/-- Every command byte of an operation is an instruction the operation may send (R86 to R88, R94 to R96, R99). -/
theorem maySend_of_command_mem {i : Instr} {s : State} {b : Byte} (h : Action.command b ∈ stepsOf i s) :
    ∃ j, decodeByte b = .ok j ∧ maySend i j := by
  by_cases hinit : i = .lcdInit
  · subst hinit
    have hbytes : b = 0x28#8 ∨ b = 0x0C#8 ∨ b = 0x06#8 ∨ b = 0x01#8 := by
      simpa [stepsOf, initSteps_eq_append, initPreambleSteps, initProtocolSteps] using h
    obtain rfl | rfl | rfl | rfl := hbytes
    · exact ⟨.functionSet 0 1 0 0, rfl, rfl, rfl⟩
    · exact ⟨.displayControl 1 0 0, rfl, rfl⟩
    · exact ⟨.entryModeSet 1 0, rfl, rfl⟩
    · exact ⟨.clearDisplay, rfl, trivial⟩
  cases hlcd : isLcdOperation i with
  | false => cases stepsOf_isSilent hinit hlcd s _ h
  | true =>
    cases i with
    | lcdClear =>
      obtain rfl : b = 0x01#8 := by simpa [stepsOf, clearSteps] using h
      exact ⟨.clearDisplay, rfl, trivial⟩
    | lcdHome =>
      obtain rfl : b = 0x02#8 := by simpa [stepsOf, homeSteps] using h
      exact ⟨.returnHome 0, rfl, rfl⟩
    | lcdSetCursor row col =>
      by_cases hrange : cursorInRange s row col
      · obtain ⟨hrow, hcol⟩ := hrange
        simp only [stepsOf, setCursorSteps_inRange hrow hcol] at h
        obtain rfl : b = setDdramByte _ := by simpa using h
        exact ⟨_, decodeByte_setDdramByte _, trivial⟩
      · simp [stepsOf, setCursorSteps_outOfRange hrange] at h
    | lcdPrintChar c => simp [stepsOf, charSteps] at h
    | lcdPrintString str =>
      exact absurd rfl (forall_mem_stringSteps (P := (· ≠ .command b)) (by simp) (by simp) (by simp) str _ h)
    | _ => simp [isLcdOperation] at hlcd

/-! ## What is read -/

theorem not_isBusEvent_rdi {m : LineMap} {p : PortIx} {v : BitVec 16} : ¬ isBusEvent m (.rdi p v) := by
  simp [isBusEvent, driveEvent]

section
variable {s t : State} {es : List Event} (htrace : t.trace = s.trace ++ es)
include htrace

theorem rdi_not_mem_lcdOperation {i : Instr} (hi : isLcdOperation i = true) (h : exec i s = .next t) (p : PortIx)
    (v : BitVec 16) : Event.rdi p v ∉ es := by
  obtain ⟨⟨happends, -⟩, -⟩ := exec_lcdOperation_next hi h
  obtain ⟨-, hbus⟩ := happends.events htrace
  exact fun hmem => not_isBusEvent_rdi (hbus _ hmem)

theorem rdi_not_mem_lcdInit (h : exec .lcdInit s = .next t) (p : PortIx) (v : BitVec 16) : Event.rdi p v ∉ es := by
  obtain ⟨htrace', -⟩ := lcdInit_through h
  obtain rfl := List.append_cancel_left (htrace.symm.trans htrace')
  rw [List.mem_append, not_or]
  exact ⟨fun hmem => Bool.false_ne_true (initPreamble_isWr _ _ _ hmem),
    fun hmem => not_isBusEvent_rdi (isBusEvent_of_mem_initProtocol _ hmem)⟩

end

/-- Settles O44: a command byte is one of the six instructions the operations send, and their events drive lines,
write registers or wait. -/
theorem neverSent : Obligations.NeverSent := by
  intro i s
  refine ⟨fun b hb => ?sent, fun t es p v hi h htrace => ?read⟩
  case sent =>
    obtain ⟨j, hj, hmay⟩ := maySend_of_command_mem hb
    have sent {k : Instr} (hk : decodeByte b = .ok k) : maySend i k := Except.ok.inj (hj.symm.trans hk) ▸ hmay
    exact ⟨fun _ => sent, fun _ _ _ _ hk => (sent hk).2, fun _ _ _ => sent, fun _ => sent,
      fun hinit => ⟨fun _ _ hk => hinit (sent hk), fun _ _ _ hk => hinit (sent hk),
        fun _ _ _ _ hk => hinit (sent hk).1⟩⟩
  case read =>
    obtain hlcd | rfl := hi
    · exact rdi_not_mem_lcdOperation htrace hlcd h p v
    · exact rdi_not_mem_lcdInit htrace h p v

end Sys2Proof.Machine

/-! PROOFS. No instruction faults, and what an instruction may be refused for (spec/60_exceptions.md R101, R107,
R115). -/

namespace Sys2Proof.Machine

/-! ## No fault -/

theorem transmit_ne_fault (b : Byte) (s : State) (f : Fault) : transmit b s ≠ .fault f := by
  unfold transmit
  split <;> simp

theorem exec_ne_fault (i : Instr) (s : State) (f : Fault) : exec i s ≠ .fault f := by
  cases hi : isCommandByte i with
  | false =>
    rw [exec_request hi]
    exact operate_ne_fault _ _ _ s f
  | true =>
    rw [exec_commandByte hi]
    exact transmit_ne_fault _ s f

/-! ## Acceptance decides -/

/-- An accepted request completes: no step of its sequence is refused (R107). -/
theorem exec_accepted_completes {i : Instr} (hi : isCommandByte i = false) {s : State} (hidle : s.seq = .idle)
    (hchecks : firstRefusal (checksOf i s) = none) : ∃ t, exec i s = .next t := by
  cases i with
  | gpioConfigure d =>
    cases d with
    | none => exact ⟨_, configureAbsentIsNoOp s hidle⟩
    | some d =>
      obtain ⟨hexists, hpull, hclock⟩ := configureChecks_none.mp hchecks
      exact ⟨_, exec_gpioConfigure ⟨hidle, hexists, hclock⟩ hpull⟩
  | gpioWrite p n l => exact ⟨_, exec_gpioWrite n l ⟨hidle, portChecks_none.mp hchecks⟩⟩
  | gpioRead p n => exact ⟨_, exec_gpioRead n ⟨hidle, portChecks_none.mp hchecks⟩ rfl⟩
  | gpioToggle p n => exact ⟨_, exec_gpioToggle n ⟨hidle, portChecks_none.mp hchecks⟩⟩
  | lcdInit => exact ⟨_, exec_lcdInit ⟨hidle, initChecks_none.mp hchecks⟩⟩
  | lcdClear | lcdHome | lcdSetCursor | lcdPrintChar | lcdPrintString =>
    exact ⟨_, exec_lcdOperation rfl ⟨hidle, lcdChecks_none.mp hchecks⟩⟩
  | reserved0 | reserved5 | reserved6 | reserved7 | reservedE | reservedF => simp [checksOf, firstRefusal] at hchecks
  | clearDisplay | returnHome | entryModeSet | displayControl | cursorDisplayShift | functionSet | setCgramAddress
  | setDdramAddress => simp [isCommandByte] at hi

/-- A refused instruction is a request to a busy block, a request with a failing check, or a byte for lines without
their clocks (R27, R47, R107). -/
theorem exec_refused_cases {i : Instr} {s : State} {r : Refusal} (h : exec i s = .refused r) :
    r = .busy ∨ firstRefusal (checksOf i s) = some r ∨ r = .portClockDisabled := by
  cases hi : isCommandByte i with
  | true =>
    rw [exec_commandByte hi, transmit] at h
    split at h
    · simp at h
    · exact .inr (.inr (Host.Outcome.refused.inj h).symm)
  | false =>
    cases hseq : s.seq with
    | busy op todo =>
      rw [exec_request hi, operate_busy hseq] at h
      exact .inl (Host.Outcome.refused.inj h).symm
    | idle =>
      cases hchecks : firstRefusal (checksOf i s) with
      | some e =>
        rw [exec_refused hi hseq hchecks] at h
        exact .inr (.inl (congrArg some (Host.Outcome.refused.inj h)))
      | none =>
        obtain ⟨t, ht⟩ := exec_accepted_completes hi hseq hchecks
        simp [ht] at h

/-! ## The reasons -/

/-- The reasons an instruction may be refused for: the first six of R115. -/
def instructionRefusals : List Refusal :=
  [.busy, .reservedRequest, .invalidPortHandle, .reservedPullCode, .portClockDisabled, .lcdNotInitialised]

/-- The refusal that a list of checks names is the one of a check in it. -/
theorem firstRefusal_mem {checks : List (Bool × Refusal)} {e : Refusal} (h : firstRefusal checks = some e) :
    ∃ c ∈ checks, c.2 = e := by
  induction checks with
  | nil => simp [firstRefusal] at h
  | cons c rest ih =>
    obtain ⟨holds, e'⟩ := c
    cases holds with
    | false => exact ⟨_, List.mem_cons_self .., Option.some.inj h⟩
    | true =>
      obtain ⟨c, hc, he⟩ := ih h
      exact ⟨c, List.mem_cons_of_mem _ hc, he⟩

theorem checksOf_mem_instructionRefusals (i : Instr) (s : State) :
    ∀ c ∈ checksOf i s, c.2 ∈ instructionRefusals := by
  cases i with
  | gpioConfigure d => cases d <;> simp [checksOf, configureChecks, instructionRefusals]
  | gpioWrite | gpioRead | gpioToggle => simp [checksOf, portChecks, instructionRefusals]
  | lcdInit => simp [checksOf, initChecks, instructionRefusals]
  | lcdClear | lcdHome | lcdSetCursor | lcdPrintChar | lcdPrintString =>
    simp [checksOf, lcdChecks, instructionRefusals]
  | reserved0 | reserved5 | reserved6 | reserved7 | reservedE | reservedF => simp [checksOf, instructionRefusals]
  | clearDisplay | returnHome | entryModeSet | displayControl | cursorDisplayShift | functionSet | setCgramAddress
  | setDdramAddress => simp [checksOf]

/-- Settles O56: an accepted request completes, so a refusal is `busy`, the one of a failing check, or that of a byte on
lines without their clocks. -/
theorem noFaultAndNamedRefusals : Obligations.NoFaultAndNamedRefusals := by
  refine fun i s => ⟨exec_ne_fault i s, fun r h => ?_⟩
  change r ∈ instructionRefusals
  obtain rfl | hcheck | rfl := exec_refused_cases h
  · decide
  · obtain ⟨c, hc, rfl⟩ := firstRefusal_mem hcheck
    exact checksOf_mem_instructionRefusals i s c hc
  · decide

end Sys2Proof.Machine

/-! PROOFS. What a step of the whole machine leaves of a session: the sequencer idle, and the registers that `LCD_INIT`
latched as they were (spec/10_state.md R25, R32; spec/70_reset_and_hazards.md R116, R126, R127). -/

namespace Sys2Proof.Machine

/-! ## What a session stands on -/

/-- The configuration, the sequencer and the LCD unit stay, but for the tracked cursor. -/
def KeepsSession (s t : State) : Prop :=
  t.cfg = s.cfg ∧ t.seq = s.seq ∧ t.lpd = { s.lpd with curRow := t.lpd.curRow, curCol := t.lpd.curCol }

theorem KeepsSession.refl (s : State) : KeepsSession s s := ⟨rfl, rfl, rfl⟩

theorem KeepsSession.settled {s t : State} (h : KeepsSession s t) (hs : Settled s) : Settled t := by
  obtain ⟨hcfg, hseq, hlpd⟩ := h
  obtain ⟨hidle, hlatched⟩ := hs
  refine ⟨hseq.trans hidle, ?_⟩
  unfold SessionLatched
  rw [hcfg, hlpd]
  exact hlatched

/-! ## Instructions -/

/-- No instruction but `LCD_INIT` changes more of a session than the tracked cursor (R69 to R72, R78, R94 to R98). -/
theorem exec_keepsSession {i : Instr} (hinit : i ≠ .lcdInit) {s t : State} (h : exec i s = .next t) :
    KeepsSession s t := by
  obtain ⟨⟨hcfg, -⟩, -⟩ := exec_continues h
  have hport {p : PortIx} (hi : prmPort i = some p) : KeepsSession s t := by
    obtain ⟨es, -, hstate⟩ := prm_next hi h
    exact ⟨hcfg, hstate ▸ rfl, hstate ▸ rfl⟩
  cases i with
  | gpioConfigure d =>
    cases d with
    | none =>
      obtain ⟨hidle, -, -⟩ := operate_next.mp ((exec_request rfl s).symm.trans h)
      obtain rfl := Host.Outcome.next.inj ((configureAbsentIsNoOp s hidle).symm.trans h)
      exact .refl s
    | some d => exact hport rfl
  | gpioWrite | gpioRead | gpioToggle => exact hport rfl
  | lcdInit => exact absurd rfl hinit
  | lcdClear | lcdHome | lcdSetCursor | lcdPrintChar | lcdPrintString =>
    obtain ⟨⟨-, -, -, hlpd⟩, hseq⟩ := exec_lcdOperation_next rfl h
    exact ⟨hcfg, hseq, hlpd⟩
  | clearDisplay | returnHome | entryModeSet | displayControl | cursorDisplayShift | functionSet | setCgramAddress
  | setDdramAddress =>
    obtain ⟨⟨-, -, -, hlpd⟩, hseq, -⟩ := exec_commandByte_onlyBus rfl h
    exact ⟨hcfg, hseq, hlpd⟩
  | reserved0 | reserved5 | reserved6 | reserved7 | reservedE | reservedF =>
    obtain ⟨-, hchecks, -⟩ := operate_next.mp ((exec_request rfl s).symm.trans h)
    cases hchecks

/-- The session that `LCD_INIT` leaves, whatever it appends, is the configuration's (R83, R87 to R89). -/
theorem settled_after_lcdInit {s : State} (hidle : s.seq = .idle) (es : List Event) (r : Resp) :
    Settled { after es s with
              lpd := ⟨s.cfg.linemap, s.cfg.lcdRows, s.cfg.lcdCols, 0, 0, true, false, true, true⟩, resp := r } :=
  ⟨hidle, fun _ => ⟨rfl, rfl, rfl, rfl, rfl, rfl⟩⟩

theorem exec_settled {i : Instr} {s t : State} (hs : Settled s) (h : exec i s = .next t) : Settled t := by
  by_cases hinit : i = .lcdInit
  · subst hinit
    obtain ⟨hidle, -⟩ := hs
    rw [lcdInit_next h]
    exact settled_after_lcdInit hidle _ _
  · exact (exec_keepsSession hinit h).settled hs

/-! ## Events of the platform -/

/-- After a platform reset there is no session (R32, R116). -/
theorem settled_platformReset (s : State) : Settled (platformReset s) :=
  ⟨rfl, fun hdone => by simp at hdone⟩

theorem outside_settled {e : WorldEvent} {s t : State} (hs : Settled s) (h : outside e s = .next t) : Settled t := by
  cases e with
  | clken v => obtain rfl := Host.Outcome.next.inj h; exact hs
  | portWrite p r v => obtain rfl := outsideWrite_next h; exact hs
  | reset => obtain rfl := Host.Outcome.next.inj h; exact settled_platformReset s

/-! ## The step -/

/-- A step of an idle block waits, runs one instruction, or answers one event of the platform, from a state that differs
in what waits outside (R27, R116, R127). -/
theorem step_idle_next {s t : State} (hidle : s.seq = .idle) (h : step s = .next t) :
    t = s ∨ (∃ i inbox stream, exec i { s with inbox := inbox, stream := stream } = .next t) ∨
      ∃ e inbox, outside e { s with inbox := inbox } = .next t := by
  cases hinbox : s.inbox with
  | nil =>
    rw [step, fetch_emptyInbox hidle hinbox] at h
    exact .inl (Host.Outcome.next.inj h).symm
  | cons event rest =>
    cases event with
    | world e => exact .inr (.inr ⟨e, rest, step_world hidle hinbox ▸ h⟩)
    | request w =>
      cases hdecode : decodeRequest w s.stream with
      | ok decoded => exact .inr (.inl ⟨_, rest, _, step_request hidle hinbox hdecode ▸ h⟩)
      | error e =>
        cases e with
        | incompleteString =>
          rw [step, fetch_incompleteString hidle hinbox hdecode] at h
          exact .inl (Host.Outcome.next.inj h).symm
        | reservedBits | notAnLcdInstruction =>
          rw [step, fetch_idle hidle (noReset_of_request hinbox)] at h
          simp [fetchIdle, hinbox, hdecode] at h

/-- Settles O45: an instruction leaves the session as it was or, if it is `LCD_INIT`, starts a new one; a platform reset
ends it; and nothing else that a step of an idle block can do touches it. -/
theorem stepKeepsSettled : Obligations.StepKeepsSettled := by
  intro s t hs h
  have ⟨hidle, _⟩ := hs
  obtain rfl | ⟨i, inbox, stream, hexec⟩ | ⟨e, inbox, houtside⟩ := step_idle_next hidle h
  · exact hs
  · exact exec_settled (s := { s with inbox := inbox, stream := stream }) hs hexec
  · exact outside_settled (s := { s with inbox := inbox }) hs houtside

end Sys2Proof.Machine

/-! PROOFS. The least time a sequence takes, as the waits its steps append (spec/70_reset_and_hazards.md R125). -/

namespace Sys2Proof.Machine

/-! ## The time of events -/

theorem waitTime_append (as bs : List Event) : waitTime (as ++ bs) = waitTime as + waitTime bs := by
  simp [waitTime]

theorem waitTime_eq_zero {es : List Event} (h : ∀ e ∈ es, waitOf e = 0) : waitTime es = 0 := by
  simpa [waitTime, List.sum_eq_zero_iff] using h

theorem waitTime_nibbleEvents (c : Cfg) (m : LineMap) (n : Nibble) : waitTime (nibbleEvents c m n) = c.tEH + c.tEL := by
  obtain ⟨-, -, -, htime⟩ := hasCounts_nibble c m n
  exact htime

theorem waitTime_byteEvents (c : Cfg) (m : LineMap) (b : Byte) :
    waitTime (byteEvents c m b) = 2 * (c.tEH + c.tEL) := by
  rw [byteEvents, waitTime_append, waitTime_nibbleEvents, waitTime_nibbleEvents, Nat.two_mul]

/-- Driving register-select takes no time, so a transaction takes that of its byte (R78, R79). -/
theorem waitTime_drive_cons (m : LineMap) (r : Role) (l : Level) (es : List Event) :
    waitTime (driveEvent m r l :: es) = waitTime es := Nat.zero_add _

/-! ## The time of a sequence -/

/-- The events appended between two states take the time `d`. -/
def Takes (d : Nat) (s t : State) : Prop := ∃ es, t.trace = s.trace ++ es ∧ waitTime es = d

theorem takes_after (es : List Event) (s : State) : Takes (waitTime es) s (after es s) := ⟨es, rfl, rfl⟩

theorem Takes.trans {d d' : Nat} {s t u : State} (hst : Takes d s t) (htu : Takes d' t u) : Takes (d + d') s u := by
  obtain ⟨as, htrace, rfl⟩ := hst
  obtain ⟨bs, htrace', rfl⟩ := htu
  exact ⟨as ++ bs, by rw [htrace', htrace, List.append_assoc], waitTime_append as bs⟩

theorem Takes.of_appends {P : Event → Prop} {s t : State} (h : Appends P s t) (hP : ∀ e, P e → waitOf e = 0) :
    Takes 0 s t := by
  obtain ⟨es, ⟨htrace, -⟩, hes⟩ := h
  exact ⟨es, htrace, waitTime_eq_zero fun e he => hP e (hes e he)⟩

theorem waitOf_of_accesses {p : PortIx} {r : Reg} (e : Event) (h : accesses p r e) : waitOf e = 0 := by
  cases e with
  | wr | rdi => rfl
  | wait => exact h.elim

/-- The least time of one step: its wait, or the enable pulses of the nibbles it sends (R74, R76 to R79). -/
def stepTime (c : Cfg) : Action → Nat
  | .wait d => d
  | .nibble _ => c.tEH + c.tEL
  | .command _ | .instructionByte _ | .data _ => 2 * (c.tEH + c.tEL)
  | _ => 0

theorem sendCommand_takes (b : Byte) (s : State) : Takes (2 * (s.cfg.tEH + s.cfg.tEL)) s (sendCommand b s) := by
  rw [sendCommand_eq, ← waitTime_byteEvents s.cfg s.lpd.lmap b, ← waitTime_drive_cons s.lpd.lmap .rs false]
  exact takes_after ..

theorem sendData_takes (b : Byte) (s : State) : Takes (2 * (s.cfg.tEH + s.cfg.tEL)) s (sendData b s) := by
  rw [sendData_eq, ← waitTime_byteEvents s.cfg s.lpd.lmap b, ← waitTime_drive_cons s.lpd.lmap .rs true]
  exact takes_after ..

theorem sendNibble_takes (n : Nibble) (s : State) : Takes (s.cfg.tEH + s.cfg.tEL) s (sendNibble n s) := by
  rw [sendNibble_eq, ← waitTime_nibbleEvents s.cfg s.lpd.lmap n]
  exact takes_after ..

theorem perform_takes {a : Action} {s t : State} (h : perform a s = .ok t) : Takes (stepTime s.cfg a) s t := by
  have happends := perform_appends h
  cases a <;> simp only [perform, Except.ok.injEq] at h
  case fieldWrite | clearField | setField | toggle => exact .of_appends happends waitOf_of_accesses
  case setupPin => exact .of_appends happends fun e ⟨_, _, he⟩ => waitOf_of_accesses e he
  case readLevel => exact .of_appends happends fun _ ⟨_, he⟩ => he ▸ rfl
  case writeLevel => exact .of_appends happends fun _ he => he ▸ rfl
  case latch | selectFourBit | entryMode | cursor | advance | initDone | respond =>
    exact .of_appends happends fun _ he => he.elim
  case drive r l => exact h ▸ drive_eq r l s ▸ takes_after ..
  case wait d => exact h ▸ wait_eq d s ▸ takes_after ..
  case nibble => exact h ▸ sendNibble_takes ..
  case data => exact h ▸ sendData_takes ..
  case command | instructionByte =>
    split at h
    · simp at h
    · exact Except.ok.inj h ▸ sendCommand_takes ..

/-- The least time of a sequence is the sum of its steps'. -/
def sequenceTime (c : Cfg) (as : List Action) : Nat := (as.map (stepTime c)).sum

theorem sequenceTime_append (c : Cfg) (as bs : List Action) :
    sequenceTime c (as ++ bs) = sequenceTime c as + sequenceTime c bs := by
  simp [sequenceTime]

theorem runActions_takes {as : List Action} {s t : State} (h : runActions as s = .ok t) :
    Takes (sequenceTime s.cfg as) s t := by
  induction as generalizing s with
  | nil => obtain rfl := Except.ok.inj h; exact ⟨[], (List.append_nil _).symm, rfl⟩
  | cons a rest ih =>
    obtain ⟨u, hu, hrest⟩ := runActions_cons_ok.mp h
    obtain ⟨⟨hcfg, -⟩, -⟩ := perform_continues hu
    exact (perform_takes hu).trans (hcfg ▸ ih hrest)

/-! ## The operations -/

/-- A completed operation takes the time of its sequence. -/
theorem exec_takes {i : Instr} (hi : isOperation i = true) {s t : State} (h : exec i s = .next t) :
    Takes (sequenceTime s.cfg (stepsOf i s)) s t := by
  obtain ⟨-, hrun⟩ := exec_operation_next hi h
  exact runActions_takes (s := accepted i (stepsOf i s) s) hrun

/-- No step on a port waits. -/
theorem sequenceTime_configureSteps (c : Cfg) (d : Descriptor) : sequenceTime c (configureSteps d) = 0 := by
  by_cases hmode : d.mode = 0b10#2 <;> simp [sequenceTime, configureSteps, hmode, stepTime]

/-- Phases P0 to P2 do not wait; from the power-on wait on there are four waits, four nibbles and four commands (R92). -/
theorem sequenceTime_initSteps (c : Cfg) : sequenceTime c initSteps = 45720 + 12 * (c.tEH + c.tEL) := by
  have hpreamble : sequenceTime c initPreambleSteps = 0 := rfl
  rw [initSteps_eq_append, sequenceTime_append, hpreamble]
  simp only [sequenceTime, initProtocolSteps, stepTime, List.map_cons, List.map_nil, List.sum_cons, List.sum_nil]
  omega

/-- A command, the wait of Clear-Display, and what takes no time (R94, R95). -/
theorem sequenceTime_homesCursor (c : Cfg) (b : Byte) :
    sequenceTime c [.command b, .wait Config.tClear, .cursor 0 0, .respond .ok false] =
      1520 + 2 * (c.tEH + c.tEL) := Nat.add_comm ..

/-- Each character is one data transaction (R97, R98). -/
theorem sequenceTime_charSteps (c : Cfg) (str : List Byte) :
    sequenceTime c (str.flatMap charSteps) = 2 * str.length * (c.tEH + c.tEL) := by
  induction str with
  | nil => simp [sequenceTime]
  | cons b rest ih =>
    have hfirst : sequenceTime c (charSteps b) = 2 * (c.tEH + c.tEL) := rfl
    rw [List.flatMap_cons, sequenceTime_append, hfirst, ih, List.length_cons]
    ring

/-- Settles O58: a completed operation takes the time of its sequence, which for each operation is added up. -/
theorem durations : Obligations.Durations := by
  intro i s t hi h
  obtain ⟨es, htrace, htime⟩ := exec_takes hi h
  refine ⟨es, htrace, htime.trans ?_⟩
  cases i with
  | gpioConfigure d =>
    cases d with
    | none => rfl
    | some d => exact sequenceTime_configureSteps s.cfg d
  | gpioWrite | gpioRead | gpioToggle => rfl
  | lcdInit => exact sequenceTime_initSteps s.cfg
  | lcdClear | lcdHome => exact sequenceTime_homesCursor s.cfg _
  | lcdSetCursor row col =>
    dsimp only [stepsOf]
    split_ifs with hrange
    · obtain ⟨hrow, hcol⟩ := hrange
      rw [setCursorSteps_inRange hrow hcol]
      rfl
    · rw [setCursorSteps_outOfRange hrange]
      rfl
  | lcdPrintChar => rfl
  | lcdPrintString str => exact (sequenceTime_append ..).trans (sequenceTime_charSteps s.cfg str)
  | _ => simp [isOperation] at hi

end Sys2Proof.Machine

/-! PROOFS. A table word put where the next step takes its instruction from is what that step runs
(spec/30_encoding.md R51, R56, R59; logs 7 and 10). -/

namespace Sys2Proof

/-! ## A table word as the decoder reads it -/

theorem decodeTableWord_request_eq_some_iff {w : Nat} {i : Instr} :
    decodeTableWord 32 w = some i ↔
      ∃ rest, decodeRequest (BitVec.ofNat 32 w) (List.replicate (reqLen (BitVec.ofNat 32 w)).toNat 0#8) =
        .ok (i, rest) := by
  rw [decodeTableWord, if_pos rfl]
  split <;> simp_all

theorem decodeTableWord_byte_eq_some_iff {w : Nat} {i : Instr} :
    decodeTableWord 8 w = some i ↔ decodeByte (BitVec.ofNat 8 w) = .ok i := by
  rw [decodeTableWord, if_neg (by decide), if_pos rfl]
  split <;> simp_all

section
variable {w : Word} {stream rest : List Byte} {i : Instr}

theorem decodeRequest_string (hopc : reqOpc w = 0xD#4) : decodeRequest w stream = stringRequest w stream := by
  simp [decodeRequest, hopc]

/-- Every request but the string's is one word: it decodes to the same before any operand stream, and takes nothing of
it. -/
theorem decodeRequest_anyStream (hopc : reqOpc w ≠ 0xD#4) (h : decodeRequest w stream = .ok (i, rest))
    (more : List Byte) : decodeRequest w more = .ok (i, more) := by
  have oneWord_more {z : Nat} {j : Instr} (hj : oneWord z w stream j = .ok (i, rest)) :
      oneWord z w more j = .ok (i, more) := by
    obtain ⟨hzero, rfl, -⟩ := oneWord_eq_ok_iff.mp hj
    exact oneWord_eq_ok_iff.mpr ⟨hzero, rfl, rfl⟩
  have ok_more {j : Instr} (hj : (.ok (j, stream) : Except DecodeError _) = .ok (i, rest)) :
      (.ok (j, more) : Except DecodeError _) = .ok (i, more) := by
    obtain ⟨rfl, -⟩ := Prod.mk.inj (Except.ok.inj hj)
    rfl
  unfold decodeRequest at h ⊢
  split at h
  case h_1 | h_2 | h_3 | h_4 | h_5 | h_6 | h_7 | h_8 | h_9 => exact oneWord_more h
  case h_10 hstring => exact absurd (BitVec.eq_of_toNat_eq hstring) hopc
  case h_11 | h_12 | h_13 | h_14 | h_15 | h_16 => exact ok_more h

end

end Sys2Proof

namespace Sys2Proof.Machine

/-! ## A request word -/

/-- The operand bytes placed with a request word are those the table's reading of it takes, so what waited on the stream
before is what is left. -/
theorem decodeRequest_placeWord {w : Nat} {i : Instr} (h : decodeTableWord 32 w = some i) (s : State) :
    decodeRequest (BitVec.ofNat 32 w) (placeWord s 32 w).stream = .ok (i, s.stream) := by
  obtain ⟨rest, hdecode⟩ := decodeTableWord_request_eq_some_iff.mp h
  rw [placeWord, if_neg (by decide)]
  split_ifs with hopc
  · rw [decodeRequest_string hopc] at hdecode ⊢
    obtain ⟨hzero, str, hlen, rfl, hstr⟩ := stringRequest_eq_ok_iff.mp hdecode
    obtain ⟨rfl, -⟩ := List.append_inj (t₁ := []) ((List.append_nil _).trans hstr) (by rw [List.length_replicate, hlen])
    exact stringRequest_eq_ok_iff.mpr ⟨hzero, _, hlen, rfl, rfl⟩
  · exact decodeRequest_anyStream hopc hdecode _

/-- The placed request is the first thing presented to an idle block. -/
theorem step_withFetchWord_request {w : Nat} {i : Instr} (h : decodeTableWord 32 w = some i) (s : State) :
    step (s.withFetchWord 32 w) = exec i { s with seq := .idle } :=
  step_request (s := placeWord s 32 w) rfl rfl (decodeRequest_placeWord h s)

/-! ## An LCD instruction byte -/

theorem dropWhile_isReset_ne_reset (inbox rest : List HostEvent) :
    inbox.dropWhile isReset ≠ .world .reset :: rest := by
  intro h
  have := List.head?_dropWhile_not isReset inbox
  simp [h, isReset] at this

theorem placeWord_byte {s : State} {op : Instr} {todo : List Action} (hseq : s.seq = .busy op todo) (w : Nat) :
    placeWord s 8 w =
      { s with
        seq := .busy op (.instructionByte (BitVec.ofNat 8 w) :: todo)
        inbox := s.inbox.dropWhile isReset } := by
  simp [placeWord, hseq]

/-- The placed byte is the first step a busy sequencer has to perform, and no reset comes before it. -/
theorem step_withFetchWord_byte {w : Nat} {i op : Instr} {s : State} {todo : List Action}
    (h : decodeTableWord 8 w = some i) (hseq : s.seq = .busy op todo) :
    step (s.withFetchWord 8 w) = exec i { s with inbox := s.inbox.dropWhile isReset } := by
  rw [State.withFetchWord, placeWord_byte hseq, step,
    fetch_instructionByte rfl (dropWhile_isReset_ne_reset s.inbox) (decodeTableWord_byte_eq_some_iff.mp h), ← hseq]

/-- Settles O7: a request is first in the inbox with its operand bytes first on the stream, a byte is first of the steps
left with no reset before it. -/
theorem placedWordIsRun : Obligations.PlacedWordIsRun :=
  fun s _ _ => ⟨fun h => step_withFetchWord_request h s, fun h _ _ hseq => step_withFetchWord_byte h hseq⟩

end Sys2Proof.Machine
